-- ==== Sys2Proof/Word.lean ====
section
/-! DEFINITION. The two widths of the machine (spec/00_scope.md R7). -/

namespace Sys2Proof

/-- A word is 16 bits, bit 0 the least significant (R7). -/
abbrev Word := BitVec 16

/-- A byte is 8 bits (R7). -/
abbrev Byte := BitVec 8

end Sys2Proof
end

