-- ==== Sys2Proof/Syntax.lean ====
section
/-! DEFINITION. The instructions: one constructor per row of spec/opcode_table.json
(spec/30_encoding.md R66), named by the row's machine name, the operands in assembly order (R76).
Bits a row does not use are no operand (R74), except where the word itself is recorded in a fault
(reserved and not implemented rows, spec/60_exceptions.md R186). -/

namespace Sys2Proof

/-- The eight general registers (spec/10_state.md R21). -/
inductive Reg where
  | r0 | r1 | r2 | r3 | r4 | r5 | r6 | r7
deriving DecidableEq, Repr

/-- The eight encoded conditions (spec/10_state.md R28). -/
inductive Cond where
  | eq | ne | uge | ult | ge | lt | ugt | gt
deriving DecidableEq, Repr

inductive Instr where
  -- Format P (spec/40_prefix_call.md)
  | pfix_k (k : BitVec 11)
  | call (a : BitVec 11)
  -- Format I1 (spec/41_mem_imm_offset.md)
  | lea_mr (rs : Reg) (k : BitVec 5) (rd : Reg)
  | movw_mr (rs : Reg) (k : BitVec 5) (rd : Reg)
  | movzb_mr (rs : Reg) (k : BitVec 5) (rd : Reg)
  | movsb_mr (rs : Reg) (k : BitVec 5) (rd : Reg)
  | movw_rm (rd : Reg) (rs : Reg) (k : BitVec 5)
  | movb_rm (rd : Reg) (rs : Reg) (k : BitVec 5)
  -- Format I2 (spec/42_imm8.md)
  | mov_kr (k : BitVec 8) (rd : Reg)
  | cmp_rk (rd : Reg) (k : BitVec 8)
  | add_kr (rd : Reg) (k : BitVec 8)
  | sub_kr (rd : Reg) (k : BitVec 8)
  | and_kr (rd : Reg) (k : BitVec 8)
  | movw_ar (a : BitVec 8) (rd : Reg)
  | movsb_ar (a : BitVec 8) (rd : Reg)
  | movw_ra (rd : Reg) (a : BitVec 8)
  | movb_ra (rd : Reg) (a : BitVec 8)
  | lea_qr (k : BitVec 8) (rd : Reg)
  | movw_qr (k : BitVec 8) (rd : Reg)
  | movsb_qr (k : BitVec 8) (rd : Reg)
  | movw_rq (rd : Reg) (k : BitVec 8)
  | movb_rq (rd : Reg) (k : BitVec 8)
  -- Format J (spec/43_branch_addsp.md)
  | br_ck (cc : Cond) (a : BitVec 9)
  | add_kq (k : BitVec 9)
  | jmp_k (a : BitVec 9)
  -- Format R1 (spec/44_three_reg.md)
  | cmp_rr (rs rn : Reg)
  | cmpc_rr (rs rn : Reg)
  | sub_rrr (rs rn rd : Reg)
  | subc_rrr (rs rn rd : Reg)
  | or_rrr (rs rn rd : Reg)
  | and_rrr (rs rn rd : Reg)
  | xor_rrr (rs rn rd : Reg)
  | adc_rrr (rs rn rd : Reg)
  | add_rrr (rs rn rd : Reg)
  | movw_nr (rs rn rd : Reg)
  | movzb_nr (rs rn rd : Reg)
  | movsb_nr (rs rn rd : Reg)
  | movw_rn (rd rs rn : Reg)
  | movb_rn (rd rs rn : Reg)
  | sel_crrr (cc : Cond) (rs rn rd : Reg)
  -- Format R2 (spec/45_two_reg.md)
  | set_cr (cc : Cond) (rd : Reg)
  | mov_rr (rs rd : Reg)
  | mov_rq (rs : Reg)
  | zext_rr (rs rd : Reg)
  | sext_rr (rs rd : Reg)
  | bswap_rr (rs rd : Reg)
  | sextw_rr (rs rd : Reg)
  | reserved_110_000 (x : BitVec 6)
  | movw_pr (rs rd : Reg)
  | lsr_rr (rs rd : Reg)
  | lsrc_rr (rs rd : Reg)
  | asr_rr (rs rd : Reg)
  | reserved_011_001 (x : BitVec 6)
  | reserved_100_001 (x : BitVec 6)
  | neg_rr (rs rd : Reg)
  | not_rr (rs rd : Reg)
  | reserved_111_001 (x : BitVec 6)
  | jmp_r (rd : Reg)
  | call_r (rd : Reg)
  | push_r (rd : Reg)
  | pop_r (rd : Reg)
  | reserved_100_010 (x : BitVec 6)
  | reserved_101_010 (x : BitVec 6)
  | mov_sr (x : BitVec 3) (rd : Reg)
  | mov_rs (x : BitVec 3) (rd : Reg)
  | ret
  | reti
  | dint
  | eint
  | halt
  | reserved_101_011 (x : BitVec 6)
  | reserved_110_011 (x : BitVec 6)
  | reserved_111_011 (x : BitVec 6)
  /-- opL = 100 or 101; `opH` is bits 11..9 and `x` is bits 6..0. -/
  | reserved_xxx_10x (opH : BitVec 3) (x : BitVec 7)
deriving DecidableEq, Repr

end Sys2Proof
end

