-- ==== Sys2Proof/Decode.lean ====
section
/-! DEFINITION. Decoding and encoding (spec/30_encoding.md R60 to R66, R72, R74, R84). The decoder
splits on the opcode fields R61 to R65 give; `Instr.opcodeRow` is the mask and match table of R66
that R84 decodes by. -/

namespace Sys2Proof

/-- Why a word gives no instruction. Neither case arises for a 16-bit word: the rows of R66 cover
all 65536 words. -/
inductive DecodeError where
  /-- no row of R66 matches the word -/
  | noRow (w : Word)
  /-- the instruction is longer than one word (R60) -/
  | tooLong (nbits : Nat)
deriving DecidableEq, Repr

/-- A register as its 3-bit field (spec/10_state.md R21; the numbering is PRESUMED, log entry 21).
-/
def Reg.bits : Reg → BitVec 3
  | .r0 => 0b000#3
  | .r1 => 0b001#3
  | .r2 => 0b010#3
  | .r3 => 0b011#3
  | .r4 => 0b100#3
  | .r5 => 0b101#3
  | .r6 => 0b110#3
  | .r7 => 0b111#3

/-- The register a 3-bit field selects (R21). -/
def Reg.ofBits (b : BitVec 3) : Reg :=
  match b.toNat with
  | 0 => .r0
  | 1 => .r1
  | 2 => .r2
  | 3 => .r3
  | 4 => .r4
  | 5 => .r5
  | 6 => .r6
  | _ => .r7

/-- A condition as its 3-bit field (spec/10_state.md R28). -/
def Cond.bits : Cond → BitVec 3
  | .eq => 0b000#3
  | .ne => 0b001#3
  | .uge => 0b010#3
  | .ult => 0b011#3
  | .ge => 0b100#3
  | .lt => 0b101#3
  | .ugt => 0b110#3
  | .gt => 0b111#3

/-- The condition a 3-bit field selects (R28). -/
def Cond.ofBits (b : BitVec 3) : Cond :=
  match b.toNat with
  | 0 => .eq
  | 1 => .ne
  | 2 => .uge
  | 3 => .ult
  | 4 => .ge
  | 5 => .lt
  | 6 => .ugt
  | _ => .gt

/-- opL = 000: moves (R154 to R161). -/
def decodeMoves (w : Word) : Except DecodeError Instr :=
  let rd := Reg.ofBits (w.extractLsb' 0 3)
  let rs := Reg.ofBits (w.extractLsb' 3 3)
  match (w.extractLsb' 9 3).toNat with
  | 0 => .ok (.mov_rr rs rd)
  | 1 => .ok (.mov_rq rs)
  | 2 => .ok (.zext_rr rs rd)
  | 3 => .ok (.sext_rr rs rd)
  | 4 => .ok (.bswap_rr rs rd)
  | 5 => .ok (.sextw_rr rs rd)
  | 6 => .ok (.reserved_110_000 (w.extractLsb' 0 6))
  | 7 => .ok (.movw_pr rs rd)
  | _ => .error (.noRow w)

/-- opL = 001: shifts and unary ALU (R163 to R167, R180). -/
def decodeShifts (w : Word) : Except DecodeError Instr :=
  let rd := Reg.ofBits (w.extractLsb' 0 3)
  let rs := Reg.ofBits (w.extractLsb' 3 3)
  match (w.extractLsb' 9 3).toNat with
  | 0 => .ok (.lsr_rr rs rd)
  | 1 => .ok (.lsrc_rr rs rd)
  | 2 => .ok (.asr_rr rs rd)
  | 3 => .ok (.reserved_011_001 (w.extractLsb' 0 6))
  | 4 => .ok (.reserved_100_001 (w.extractLsb' 0 6))
  | 5 => .ok (.neg_rr rs rd)
  | 6 => .ok (.not_rr rs rd)
  | 7 => .ok (.reserved_111_001 (w.extractLsb' 0 6))
  | _ => .error (.noRow w)

/-- opL = 010: indirect jump and call, push, pop, SR moves (R168 to R174). -/
def decodeIndirect (w : Word) : Except DecodeError Instr :=
  let rd := Reg.ofBits (w.extractLsb' 0 3)
  match (w.extractLsb' 9 3).toNat with
  | 0 => .ok (.jmp_r rd)
  | 1 => .ok (.call_r rd)
  | 2 => .ok (.push_r rd)
  | 3 => .ok (.pop_r rd)
  | 4 => .ok (.reserved_100_010 (w.extractLsb' 0 6))
  | 5 => .ok (.reserved_101_010 (w.extractLsb' 0 6))
  | 6 => .ok (.mov_sr (w.extractLsb' 3 3) rd)
  | 7 => .ok (.mov_rs (w.extractLsb' 3 3) rd)
  | _ => .error (.noRow w)

/-- opL = 011: zero-operand instructions (R175 to R180). -/
def decodeZeroOperand (w : Word) : Except DecodeError Instr :=
  match (w.extractLsb' 9 3).toNat with
  | 0 => .ok .ret
  | 1 => .ok .reti
  | 2 => .ok .dint
  | 3 => .ok .eint
  | 4 => .ok .halt
  | 5 => .ok (.reserved_101_011 (w.extractLsb' 0 6))
  | 6 => .ok (.reserved_110_011 (w.extractLsb' 0 6))
  | 7 => .ok (.reserved_111_011 (w.extractLsb' 0 6))
  | _ => .error (.noRow w)

/-- Format R2 (R65): opL is bits 8..6; 10x is reserved, 11x the conditional set (R72). -/
def decodeR2 (w : Word) : Except DecodeError Instr :=
  match (w.extractLsb' 6 3).toNat with
  | 0 => decodeMoves w
  | 1 => decodeShifts w
  | 2 => decodeIndirect w
  | 3 => decodeZeroOperand w
  | 4 | 5 => .ok (.reserved_xxx_10x (w.extractLsb' 9 3) (w.extractLsb' 0 7))
  | 6 | 7 => .ok (.set_cr (Cond.ofBits (w.extractLsb' 9 3)) (Reg.ofBits (w.extractLsb' 0 3)))
  | _ => .error (.noRow w)

/-- Format R1 with three registers and the two J rows in its op4 = 1110 and 1111 (R64, R65, R72). -/
def decodeR1 (w : Word) : Except DecodeError Instr :=
  let rd := Reg.ofBits (w.extractLsb' 0 3)
  let rs := Reg.ofBits (w.extractLsb' 3 3)
  let rn := Reg.ofBits (w.extractLsb' 6 3)
  match (w.extractLsb' 9 4).toNat with
  | 0 => .ok (.cmp_rr rs rn)
  | 1 => .ok (.cmpc_rr rs rn)
  | 2 => .ok (.sub_rrr rs rn rd)
  | 3 => .ok (.subc_rrr rs rn rd)
  | 4 => .ok (.or_rrr rs rn rd)
  | 5 => .ok (.and_rrr rs rn rd)
  | 6 => .ok (.xor_rrr rs rn rd)
  | 7 => .ok (.adc_rrr rs rn rd)
  | 8 => .ok (.add_rrr rs rn rd)
  | 9 => .ok (.movw_nr rs rn rd)
  | 10 => .ok (.movzb_nr rs rn rd)
  | 11 => .ok (.movsb_nr rs rn rd)
  | 12 => .ok (.movw_rn rd rs rn)
  | 13 => .ok (.movb_rn rd rs rn)
  | 14 => .ok (.add_kq (w.extractLsb' 0 9))
  | 15 => .ok (.jmp_k (w.extractLsb' 0 9))
  | _ => .error (.noRow w)

/-- The instruction of a word (R84): bits 15..11 select the format, and in formats I1, I2 and P the
instruction (R61 to R65). -/
def decode (w : Word) : Except DecodeError Instr :=
  let rd := Reg.ofBits (w.extractLsb' 0 3)
  let rs := Reg.ofBits (w.extractLsb' 3 3)
  let rn := Reg.ofBits (w.extractLsb' 6 3)
  let cc := Cond.ofBits (w.extractLsb' 9 3)
  match (w.extractLsb' 11 5).toNat with
  | 0 | 1 => decodeR2 w
  | 2 | 3 => .ok (.sel_crrr cc rs rn rd)
  | 4 | 5 | 6 | 7 => decodeR1 w
  | 8 | 9 => .ok (.br_ck cc (w.extractLsb' 0 9))
  | 10 => .ok (.mov_kr (w.extractLsb' 3 8) rd)
  | 11 => .ok (.cmp_rk rd (w.extractLsb' 3 8))
  | 12 => .ok (.add_kr rd (w.extractLsb' 3 8))
  | 13 => .ok (.sub_kr rd (w.extractLsb' 3 8))
  | 14 => .ok (.and_kr rd (w.extractLsb' 3 8))
  | 15 => .ok (.movw_ar (w.extractLsb' 3 8) rd)
  | 16 => .ok (.movsb_ar (w.extractLsb' 3 8) rd)
  | 17 => .ok (.movw_ra rd (w.extractLsb' 3 8))
  | 18 => .ok (.movb_ra rd (w.extractLsb' 3 8))
  | 19 => .ok (.lea_qr (w.extractLsb' 3 8) rd)
  | 20 => .ok (.movw_qr (w.extractLsb' 3 8) rd)
  | 21 => .ok (.movsb_qr (w.extractLsb' 3 8) rd)
  | 22 => .ok (.movw_rq rd (w.extractLsb' 3 8))
  | 23 => .ok (.movb_rq rd (w.extractLsb' 3 8))
  | 24 => .ok (.lea_mr rs (w.extractLsb' 6 5) rd)
  | 25 => .ok (.movw_mr rs (w.extractLsb' 6 5) rd)
  | 26 => .ok (.movzb_mr rs (w.extractLsb' 6 5) rd)
  | 27 => .ok (.movsb_mr rs (w.extractLsb' 6 5) rd)
  | 28 => .ok (.movw_rm rd rs (w.extractLsb' 6 5))
  | 29 => .ok (.movb_rm rd rs (w.extractLsb' 6 5))
  | 30 => .ok (.call (w.extractLsb' 0 11))
  | 31 => .ok (.pfix_k (w.extractLsb' 0 11))
  | _ => .error (.noRow w)

/-- What the decoder reads from an instruction of `nbits` bits `w`; bits the table does not give
are 0 (the host's question about the opcode table). -/
def decodeTableWord (nbits w : Nat) : Option Instr :=
  if nbits ≤ 16 then (decode (BitVec.ofNat 16 (w % 2 ^ nbits))).toOption else none

/-! The formats (R60 to R65) as functions from their fields. -/

/-- Format P: bits 15..11 opcode, 10..0 immediate (R61). -/
def formatP (op : BitVec 5) (imm : BitVec 11) : Word :=
  op.setWidth 16 <<< 11 ||| imm.setWidth 16

/-- Format I1: bits 15..11 opcode, 10..6 immediate, 5..3 Rs, 2..0 Rd (R62). -/
def formatI1 (op k : BitVec 5) (rs rd : BitVec 3) : Word :=
  op.setWidth 16 <<< 11 ||| k.setWidth 16 <<< 6 ||| rs.setWidth 16 <<< 3 ||| rd.setWidth 16

/-- Format I2: bits 15..11 opcode, 10..3 immediate, 2..0 Rd (R63). -/
def formatI2 (op : BitVec 5) (k : BitVec 8) (rd : BitVec 3) : Word :=
  op.setWidth 16 <<< 11 ||| k.setWidth 16 <<< 3 ||| rd.setWidth 16

/-- Format J, conditional branch: bits 15..12 0100, 11..9 cc, 8..0 offset (R64). -/
def formatBranch (cc : BitVec 3) (a : BitVec 9) : Word :=
  0x4000#16 ||| cc.setWidth 16 <<< 9 ||| a.setWidth 16

/-- Format J, jump and add SP: bits 15..9 opcode, 8..0 immediate (R64). -/
def formatJ (op : BitVec 7) (a : BitVec 9) : Word :=
  op.setWidth 16 <<< 9 ||| a.setWidth 16

/-- Format R1: bits 15..9 opcode, 8..6 Rn, 5..3 Rs, 2..0 Rd (R65). -/
def formatR1 (op : BitVec 7) (rn rs rd : BitVec 3) : Word :=
  op.setWidth 16 <<< 9 ||| rn.setWidth 16 <<< 6 ||| rs.setWidth 16 <<< 3 ||| rd.setWidth 16

/-- Format R1, conditional select: bits 15..12 0001, 11..9 cc, then as R1 (R65). -/
def formatSelect (cc rn rs rd : BitVec 3) : Word :=
  0x1000#16 ||| cc.setWidth 16 <<< 9 ||| rn.setWidth 16 <<< 6 ||| rs.setWidth 16 <<< 3
    ||| rd.setWidth 16

/-- Format R2, conditional set: bits 15..12 0000, 11..9 cc, 8..7 11, 6..3 unused, 2..0 Rd (R65). -/
def formatSet (cc : BitVec 3) (x : BitVec 4) (rd : BitVec 3) : Word :=
  0x0180#16 ||| cc.setWidth 16 <<< 9 ||| x.setWidth 16 <<< 3 ||| rd.setWidth 16

/-- Format R2: bits 15..12 0000, 11..9 opH, 8..6 opL, 5..3 Rs, 2..0 Rd (R65). -/
def formatR2 (op : BitVec 10) (rs rd : BitVec 3) : Word :=
  op.setWidth 16 <<< 6 ||| rs.setWidth 16 <<< 3 ||| rd.setWidth 16

/-- Format R2 with no register: bits 5..0 unused (R65). -/
def formatR2Zero (op : BitVec 10) (x : BitVec 6) : Word :=
  op.setWidth 16 <<< 6 ||| x.setWidth 16

/-- The reserved words with opL = 100 or 101: bits 8..7 10 (R180). -/
def formatReserved (opH : BitVec 3) (x : BitVec 7) : Word :=
  0x0100#16 ||| opH.setWidth 16 <<< 9 ||| x.setWidth 16

/-- The word of an instruction (R66); bits it does not use are 0 (R74, log entry 22). -/
def encode : Instr → Word
  | .pfix_k k => formatP 0b11111#5 k
  | .call a => formatP 0b11110#5 a
  | .lea_mr rs k rd => formatI1 0b11000#5 k rs.bits rd.bits
  | .movw_mr rs k rd => formatI1 0b11001#5 k rs.bits rd.bits
  | .movzb_mr rs k rd => formatI1 0b11010#5 k rs.bits rd.bits
  | .movsb_mr rs k rd => formatI1 0b11011#5 k rs.bits rd.bits
  | .movw_rm rd rs k => formatI1 0b11100#5 k rs.bits rd.bits
  | .movb_rm rd rs k => formatI1 0b11101#5 k rs.bits rd.bits
  | .mov_kr k rd => formatI2 0b01010#5 k rd.bits
  | .cmp_rk rd k => formatI2 0b01011#5 k rd.bits
  | .add_kr rd k => formatI2 0b01100#5 k rd.bits
  | .sub_kr rd k => formatI2 0b01101#5 k rd.bits
  | .and_kr rd k => formatI2 0b01110#5 k rd.bits
  | .movw_ar a rd => formatI2 0b01111#5 a rd.bits
  | .movsb_ar a rd => formatI2 0b10000#5 a rd.bits
  | .movw_ra rd a => formatI2 0b10001#5 a rd.bits
  | .movb_ra rd a => formatI2 0b10010#5 a rd.bits
  | .lea_qr k rd => formatI2 0b10011#5 k rd.bits
  | .movw_qr k rd => formatI2 0b10100#5 k rd.bits
  | .movsb_qr k rd => formatI2 0b10101#5 k rd.bits
  | .movw_rq rd k => formatI2 0b10110#5 k rd.bits
  | .movb_rq rd k => formatI2 0b10111#5 k rd.bits
  | .br_ck cc a => formatBranch cc.bits a
  | .add_kq k => formatJ 0b0011110#7 k
  | .jmp_k a => formatJ 0b0011111#7 a
  | .cmp_rr rs rn => formatR1 0b0010000#7 rn.bits rs.bits 0
  | .cmpc_rr rs rn => formatR1 0b0010001#7 rn.bits rs.bits 0
  | .sub_rrr rs rn rd => formatR1 0b0010010#7 rn.bits rs.bits rd.bits
  | .subc_rrr rs rn rd => formatR1 0b0010011#7 rn.bits rs.bits rd.bits
  | .or_rrr rs rn rd => formatR1 0b0010100#7 rn.bits rs.bits rd.bits
  | .and_rrr rs rn rd => formatR1 0b0010101#7 rn.bits rs.bits rd.bits
  | .xor_rrr rs rn rd => formatR1 0b0010110#7 rn.bits rs.bits rd.bits
  | .adc_rrr rs rn rd => formatR1 0b0010111#7 rn.bits rs.bits rd.bits
  | .add_rrr rs rn rd => formatR1 0b0011000#7 rn.bits rs.bits rd.bits
  | .movw_nr rs rn rd => formatR1 0b0011001#7 rn.bits rs.bits rd.bits
  | .movzb_nr rs rn rd => formatR1 0b0011010#7 rn.bits rs.bits rd.bits
  | .movsb_nr rs rn rd => formatR1 0b0011011#7 rn.bits rs.bits rd.bits
  | .movw_rn rd rs rn => formatR1 0b0011100#7 rn.bits rs.bits rd.bits
  | .movb_rn rd rs rn => formatR1 0b0011101#7 rn.bits rs.bits rd.bits
  | .sel_crrr cc rs rn rd => formatSelect cc.bits rn.bits rs.bits rd.bits
  | .set_cr cc rd => formatSet cc.bits 0 rd.bits
  | .mov_rr rs rd => formatR2 0b0000000000#10 rs.bits rd.bits
  | .mov_rq rs => formatR2 0b0000001000#10 rs.bits 0
  | .zext_rr rs rd => formatR2 0b0000010000#10 rs.bits rd.bits
  | .sext_rr rs rd => formatR2 0b0000011000#10 rs.bits rd.bits
  | .bswap_rr rs rd => formatR2 0b0000100000#10 rs.bits rd.bits
  | .sextw_rr rs rd => formatR2 0b0000101000#10 rs.bits rd.bits
  | .reserved_110_000 x => formatR2Zero 0b0000110000#10 x
  | .movw_pr rs rd => formatR2 0b0000111000#10 rs.bits rd.bits
  | .lsr_rr rs rd => formatR2 0b0000000001#10 rs.bits rd.bits
  | .lsrc_rr rs rd => formatR2 0b0000001001#10 rs.bits rd.bits
  | .asr_rr rs rd => formatR2 0b0000010001#10 rs.bits rd.bits
  | .reserved_011_001 x => formatR2Zero 0b0000011001#10 x
  | .reserved_100_001 x => formatR2Zero 0b0000100001#10 x
  | .neg_rr rs rd => formatR2 0b0000101001#10 rs.bits rd.bits
  | .not_rr rs rd => formatR2 0b0000110001#10 rs.bits rd.bits
  | .reserved_111_001 x => formatR2Zero 0b0000111001#10 x
  | .jmp_r rd => formatR2 0b0000000010#10 0 rd.bits
  | .call_r rd => formatR2 0b0000001010#10 0 rd.bits
  | .push_r rd => formatR2 0b0000010010#10 0 rd.bits
  | .pop_r rd => formatR2 0b0000011010#10 0 rd.bits
  | .reserved_100_010 x => formatR2Zero 0b0000100010#10 x
  | .reserved_101_010 x => formatR2Zero 0b0000101010#10 x
  | .mov_sr x rd => formatR2 0b0000110010#10 x rd.bits
  | .mov_rs x rd => formatR2 0b0000111010#10 x rd.bits
  | .ret => formatR2Zero 0b0000000011#10 0
  | .reti => formatR2Zero 0b0000001011#10 0
  | .dint => formatR2Zero 0b0000010011#10 0
  | .eint => formatR2Zero 0b0000011011#10 0
  | .halt => formatR2Zero 0b0000100011#10 0
  | .reserved_101_011 x => formatR2Zero 0b0000101011#10 x
  | .reserved_110_011 x => formatR2Zero 0b0000110011#10 x
  | .reserved_111_011 x => formatR2Zero 0b0000111011#10 x
  | .reserved_xxx_10x opH x => formatReserved opH x

/-- A row of the opcode map of R66: a word `w` belongs to it when `w &&& mask = pattern`. `used` is
the bits of the word the instruction depends on: all but the `x` positions (R74). -/
structure OpcodeRow where
  pattern : Word
  mask : Word
  used : Word
deriving DecidableEq, Repr

/-- The row of R66 an instruction belongs to. A reserved or not implemented row uses every bit: the
fault records the word (spec/60_exceptions.md R186). -/
def Instr.opcodeRow : Instr → OpcodeRow
  | .pfix_k _ => ⟨0xF800, 0xF800, 0xFFFF⟩
  | .call _ => ⟨0xF000, 0xF800, 0xFFFF⟩
  | .lea_mr _ _ _ => ⟨0xC000, 0xF800, 0xFFFF⟩
  | .movw_mr _ _ _ => ⟨0xC800, 0xF800, 0xFFFF⟩
  | .movzb_mr _ _ _ => ⟨0xD000, 0xF800, 0xFFFF⟩
  | .movsb_mr _ _ _ => ⟨0xD800, 0xF800, 0xFFFF⟩
  | .movw_rm _ _ _ => ⟨0xE000, 0xF800, 0xFFFF⟩
  | .movb_rm _ _ _ => ⟨0xE800, 0xF800, 0xFFFF⟩
  | .mov_kr _ _ => ⟨0x5000, 0xF800, 0xFFFF⟩
  | .cmp_rk _ _ => ⟨0x5800, 0xF800, 0xFFFF⟩
  | .add_kr _ _ => ⟨0x6000, 0xF800, 0xFFFF⟩
  | .sub_kr _ _ => ⟨0x6800, 0xF800, 0xFFFF⟩
  | .and_kr _ _ => ⟨0x7000, 0xF800, 0xFFFF⟩
  | .movw_ar _ _ => ⟨0x7800, 0xF800, 0xFFFF⟩
  | .movsb_ar _ _ => ⟨0x8000, 0xF800, 0xFFFF⟩
  | .movw_ra _ _ => ⟨0x8800, 0xF800, 0xFFFF⟩
  | .movb_ra _ _ => ⟨0x9000, 0xF800, 0xFFFF⟩
  | .lea_qr _ _ => ⟨0x9800, 0xF800, 0xFFFF⟩
  | .movw_qr _ _ => ⟨0xA000, 0xF800, 0xFFFF⟩
  | .movsb_qr _ _ => ⟨0xA800, 0xF800, 0xFFFF⟩
  | .movw_rq _ _ => ⟨0xB000, 0xF800, 0xFFFF⟩
  | .movb_rq _ _ => ⟨0xB800, 0xF800, 0xFFFF⟩
  | .br_ck _ _ => ⟨0x4000, 0xF000, 0xFFFF⟩
  | .add_kq _ => ⟨0x3C00, 0xFE00, 0xFFFF⟩
  | .jmp_k _ => ⟨0x3E00, 0xFE00, 0xFFFF⟩
  | .cmp_rr _ _ => ⟨0x2000, 0xFE00, 0xFFF8⟩
  | .cmpc_rr _ _ => ⟨0x2200, 0xFE00, 0xFFF8⟩
  | .sub_rrr _ _ _ => ⟨0x2400, 0xFE00, 0xFFFF⟩
  | .subc_rrr _ _ _ => ⟨0x2600, 0xFE00, 0xFFFF⟩
  | .or_rrr _ _ _ => ⟨0x2800, 0xFE00, 0xFFFF⟩
  | .and_rrr _ _ _ => ⟨0x2A00, 0xFE00, 0xFFFF⟩
  | .xor_rrr _ _ _ => ⟨0x2C00, 0xFE00, 0xFFFF⟩
  | .adc_rrr _ _ _ => ⟨0x2E00, 0xFE00, 0xFFFF⟩
  | .add_rrr _ _ _ => ⟨0x3000, 0xFE00, 0xFFFF⟩
  | .movw_nr _ _ _ => ⟨0x3200, 0xFE00, 0xFFFF⟩
  | .movzb_nr _ _ _ => ⟨0x3400, 0xFE00, 0xFFFF⟩
  | .movsb_nr _ _ _ => ⟨0x3600, 0xFE00, 0xFFFF⟩
  | .movw_rn _ _ _ => ⟨0x3800, 0xFE00, 0xFFFF⟩
  | .movb_rn _ _ _ => ⟨0x3A00, 0xFE00, 0xFFFF⟩
  | .sel_crrr _ _ _ _ => ⟨0x1000, 0xF000, 0xFFFF⟩
  | .set_cr _ _ => ⟨0x0180, 0xF180, 0xFF87⟩
  | .mov_rr _ _ => ⟨0x0000, 0xFFC0, 0xFFFF⟩
  | .mov_rq _ => ⟨0x0200, 0xFFC0, 0xFFF8⟩
  | .zext_rr _ _ => ⟨0x0400, 0xFFC0, 0xFFFF⟩
  | .sext_rr _ _ => ⟨0x0600, 0xFFC0, 0xFFFF⟩
  | .bswap_rr _ _ => ⟨0x0800, 0xFFC0, 0xFFFF⟩
  | .sextw_rr _ _ => ⟨0x0A00, 0xFFC0, 0xFFFF⟩
  | .reserved_110_000 _ => ⟨0x0C00, 0xFFC0, 0xFFFF⟩
  | .movw_pr _ _ => ⟨0x0E00, 0xFFC0, 0xFFFF⟩
  | .lsr_rr _ _ => ⟨0x0040, 0xFFC0, 0xFFFF⟩
  | .lsrc_rr _ _ => ⟨0x0240, 0xFFC0, 0xFFFF⟩
  | .asr_rr _ _ => ⟨0x0440, 0xFFC0, 0xFFFF⟩
  | .reserved_011_001 _ => ⟨0x0640, 0xFFC0, 0xFFFF⟩
  | .reserved_100_001 _ => ⟨0x0840, 0xFFC0, 0xFFFF⟩
  | .neg_rr _ _ => ⟨0x0A40, 0xFFC0, 0xFFFF⟩
  | .not_rr _ _ => ⟨0x0C40, 0xFFC0, 0xFFFF⟩
  | .reserved_111_001 _ => ⟨0x0E40, 0xFFC0, 0xFFFF⟩
  | .jmp_r _ => ⟨0x0080, 0xFFC0, 0xFFC7⟩
  | .call_r _ => ⟨0x0280, 0xFFC0, 0xFFC7⟩
  | .push_r _ => ⟨0x0480, 0xFFC0, 0xFFC7⟩
  | .pop_r _ => ⟨0x0680, 0xFFC0, 0xFFC7⟩
  | .reserved_100_010 _ => ⟨0x0880, 0xFFC0, 0xFFFF⟩
  | .reserved_101_010 _ => ⟨0x0A80, 0xFFC0, 0xFFFF⟩
  | .mov_sr _ _ => ⟨0x0C80, 0xFFC0, 0xFFFF⟩
  | .mov_rs _ _ => ⟨0x0E80, 0xFFC0, 0xFFFF⟩
  | .ret => ⟨0x00C0, 0xFFC0, 0xFFC0⟩
  | .reti => ⟨0x02C0, 0xFFC0, 0xFFC0⟩
  | .dint => ⟨0x04C0, 0xFFC0, 0xFFC0⟩
  | .eint => ⟨0x06C0, 0xFFC0, 0xFFC0⟩
  | .halt => ⟨0x08C0, 0xFFC0, 0xFFC0⟩
  | .reserved_101_011 _ => ⟨0x0AC0, 0xFFC0, 0xFFFF⟩
  | .reserved_110_011 _ => ⟨0x0CC0, 0xFFC0, 0xFFFF⟩
  | .reserved_111_011 _ => ⟨0x0EC0, 0xFFC0, 0xFFFF⟩
  | .reserved_xxx_10x _ _ => ⟨0x0100, 0xF180, 0xFFFF⟩

end Sys2Proof
end

