-- ==== Sys2Proof/Config.lean ====
section
/-! DEFINITION. What is fixed before a run: the named parameters of spec/00_scope.md R6 with their
defaults (log entry 1), and the free values of R10, R43 and R56, which nothing in Lean can
evaluate (log entries 4, 7 and 23). -/

namespace Sys2Proof

/-- `ENDIAN`, the byte order of a word in data memory (R41). -/
inductive Endian where
  | little
  | big
deriving DecidableEq, Repr

/-- `MISALIGNED`, what a word access at an odd address does. R42 takes `fault` and names two other
readings, "ignore bit 0, or split into two byte accesses" (log entry 9). -/
inductive MisalignedPolicy where
  | fault
  | ignoreBit0
  | splitBytes
deriving DecidableEq, Repr

/-- The extension of an immediate field that no prefix replaces (R11). -/
inductive Ext where
  | zext
  | sext
deriving DecidableEq, Repr

/-- `BR_BASE`, what a branch offset is added to. R125 takes `nextWord`; `branchWord` is the other
plain reading of "PC relative" (log entry 11). -/
inductive BranchBase where
  | nextWord
  | branchWord
deriving DecidableEq, Repr

/-- `SUBC_BORROW`, the borrow input of `subc` and `cmpc` (R136, log entry 13). -/
inductive BorrowSense where
  | literal
  | chained
deriving DecidableEq, Repr

/-- `PC_UNIT`, what one unit of PC is; the spec describes one value (R23, log entry 10). -/
inductive PcUnit where
  | instructionWord
deriving DecidableEq, Repr

/-- `IRQ_MODEL`, how interrupts are delivered; the spec describes one value, `none`: never
(R188, R190, log entry 15). -/
inductive IrqModel where
  | none
deriving DecidableEq, Repr

/-- One region of `MEM_MAP`: the data-memory bytes from `base` up to `base + size`, which the
platform marks as having side effects (R43, R48). What a load there yields is `Config.regionByte`;
`device` says which device answers, so that equal ranges may have different definitions (log entry
23). -/
structure Region where
  base : Nat
  size : Nat
  device : Nat
deriving DecidableEq, Repr

/-- An access to data memory, with the address of its first byte, as a region sees it. -/
inductive RegionAccess where
  | readByte (addr : Word)
  | readWord (addr : Word)
  | writeByte (addr : Word) (v : Byte)
  | writeWord (addr : Word) (v : Word)
deriving DecidableEq, Repr

/-- The parameters of R6, each at the default R6 gives it. `PROGRAM` is a field of `Launch`. -/
structure Config where
  endian : Endian := .little
  misaligned : MisalignedPolicy := .fault
  dmBytes : Nat := 65536
  pmWords : Nat := 65536
  pcUnit : PcUnit := .instructionWord
  brBase : BranchBase := .nextWord
  absExt : Ext := .zext
  spkExt : Ext := .zext
  callExt : Ext := .zext
  subcBorrow : BorrowSense := .literal
  stackStep : Word := 2
  resetPc : Word := 0
  irqModel : IrqModel := .none
  memMap : List Region := []
deriving DecidableEq, Repr

/-- The n-th value `any` drawn for a flag (R10, R14, R162). A free value: no body, log entry 7. -/
opaque Config.freeBit : Nat → Bool

/-- What the data-memory byte at an address holds before anything has written it (R56). A free
value: no body, log entry 4. -/
opaque Config.unwrittenByte : Nat → Byte

/-- The region's own definition that R43 takes a load's value from: the byte at an address that a
region answers, given the accesses to regions so far, the present one first. A free value: no body,
since "the spec has no rule for any device" (R48, log entry 23). -/
opaque Config.regionByte : Region → List RegionAccess → Word → Byte

end Sys2Proof
end

