-- ==== Sys2Proof/Machine/Memory.lean ====
section
/-! DEFINITION. Memory as a list of address and value pairs in one canonical form, addresses strictly
rising; data memory holds bytes (`Host.Cell`), program memory words (spec/10_state.md R31, R32). An
address the list does not hold has no value of its own here: what it reads as is said where it is
read (`State.dmByte`, `State.pmWord`). -/

namespace Sys2Proof.Machine

/-- A memory of cells of `w` bits; `Memory 8` is a list of `Host.Cell`. -/
abbrev Memory (w : Nat) := List (Nat × BitVec w)

/-- The value listed at an address. -/
def Memory.read {w : Nat} : Memory w → Nat → Option (BitVec w)
  | [], _ => none
  | (b, v) :: rest, a => if a = b then some v else Memory.read rest a

/-- The memory with `v` at address `a`. -/
def Memory.write {w : Nat} : Memory w → Nat → BitVec w → Memory w
  | [], a, v => [(a, v)]
  | (b, u) :: rest, a, v =>
    if a < b then (a, v) :: (b, u) :: rest
    else if a = b then (a, v) :: rest
    else (b, u) :: Memory.write rest a v

/-- The memory with nothing listed at address `a`. -/
def Memory.erase {w : Nat} : Memory w → Nat → Memory w
  | [], _ => []
  | (b, u) :: rest, a => if a = b then Memory.erase rest a else (b, u) :: Memory.erase rest a

/-- Addresses rise strictly from `lo` on. -/
def Memory.risingFrom {w : Nat} : Nat → Memory w → Bool
  | _, [] => true
  | lo, (a, _) :: rest => decide (lo ≤ a) && Memory.risingFrom (a + 1) rest

/-- Every listed address is below `limit`. -/
def Memory.below {w : Nat} (limit : Nat) (m : Memory w) : Bool :=
  m.all fun cell => decide (cell.1 < limit)

/-- The canonical form of a memory of 16-bit addresses: strictly rising, inside the address space.
-/
def Memory.wf {w : Nat} (m : Memory w) : Bool :=
  Memory.risingFrom 0 m && Memory.below 65536 m

/-- No listed value equals `d`, the value an unlisted address reads as. -/
def Memory.omits {w : Nat} (d : BitVec w) (m : Memory w) : Bool :=
  m.all fun cell => cell.2 != d

/-- A write where an unlisted address reads as `d`: writing `d` removes the entry. -/
def Memory.writeOmitting {w : Nat} (d : BitVec w) (m : Memory w) (a : Nat) (v : BitVec w) :
    Memory w :=
  if v = d then m.erase a else m.write a v

/-- Values laid out from address `a` on, those equal to `d` not listed. -/
def Memory.layout {w : Nat} (d : BitVec w) : Nat → List (BitVec w) → Memory w
  | _, [] => []
  | a, v :: rest =>
    if v = d then Memory.layout d (a + 1) rest else (a, v) :: Memory.layout d (a + 1) rest

end Sys2Proof.Machine
end

