-- ==== Sys2Proof/Machine/State.lean ====
section
/-! DEFINITION. The state of the machine (spec/10_state.md R20) as plain data, the reasons a step can
stop (spec/60_exceptions.md R186), and reset (spec/70_reset_and_hazards.md R200). -/

namespace Sys2Proof.Machine

/-- Model faults (R186): the run has left what the source describes. A fault carries no state: a
faulting instruction changes none. -/
inductive Fault where
  /-- Raised by the reserved and the "Not implemented" instructions, with the word and PC (R71, R73,
  R186). Safe: nothing is provable from executing one. Log entry 17. -/
  | illegalInstruction (w : Word) (pc : Word)
  /-- Raised by a word access to data memory at an odd address when `MISALIGNED` is `fault`, with
  the address (R42, R186). Safe. Log entry 9. -/
  | misaligned (addr : Word)
deriving DecidableEq, Repr

/-- Refusals (R186): the spec gives the situation no meaning. -/
inductive Refusal where
  /-- Raised by no meaning: it would mark an instruction that has none yet. Safe. -/
  | notModelled (mnemonic : String)
  /-- Raised by a prefix and by an instruction without an immediate while a prefix is pending, with
  the two words (R70, R186). Safe. Log entry 18. -/
  | prefixMisuse (pfixWord : Word) (w : Word)
  /-- Raised by `reti` under `IRQ_MODEL` = none (R176, R186). Safe. Log entry 15. -/
  | returnFromInterrupt
  /-- Raised by an access to data memory at or beyond `DM_BYTES` (R43, R44, R186). Safe. Log entry
  24. -/
  | dataOutOfRange (addr : Word)
  /-- Raised by a fetch or a load from program memory at or beyond `PM_WORDS` (R46, R47, R186).
  Safe. Log entry 24. -/
  | programOutOfRange (addr : Word)
  /-- Raised by no word: the rows of R66 cover all of them (R84). Safe. -/
  | undecodable (w : Word)
deriving DecidableEq, Repr

/-- Why an operation inside an instruction stops it. -/
inductive Stop where
  | fault (f : Fault)
  | refused (r : Refusal)
deriving DecidableEq, Repr

/-- RUN (R30). -/
inductive RunState where
  | running
  | halted
deriving DecidableEq, Repr

/-- The Status register's five flags (R25); it has no other bits and no layout as a word. -/
structure Status where
  /-- 1 = interrupts enabled -/
  i : Bool
  /-- signed overflow -/
  v : Bool
  /-- sign -/
  s : Bool
  /-- carry; after a subtraction, no borrow -/
  c : Bool
  /-- zero -/
  z : Bool
deriving DecidableEq, Repr

/-- PFX, the prefix latch (R29). -/
structure PrefixLatch where
  valid : Bool
  imm : BitVec 11
deriving DecidableEq, Repr

/-- The whole state: the table of R20, and three fields of the model's own, `cfg` (log entry 1),
`free` (log entry 7) and `regionLog` (log entry 23). -/
structure State where
  /-- the parameters of R6, constant during a run (the model's own field) -/
  cfg : Config
  /-- R0 to R7 (R21) -/
  regs : Vector Word 8
  /-- SP (R22) -/
  sp : Word
  /-- PC (R23, R24) -/
  pc : Word
  /-- SR (R25) -/
  sr : Status
  /-- PFX (R29) -/
  pfx : PrefixLatch
  /-- RUN (R30) -/
  run : RunState
  /-- DM (R31): the bytes written since reset -/
  dm : Memory 8
  /-- PM (R32): the words of `PROGRAM` that are not `erasedWord` -/
  pm : Memory 16
  /-- how many values `any` have been drawn (R10; the model's own field) -/
  free : Nat
  /-- the accesses to regions of `MEM_MAP` since reset, the newest first: what a region's own
  definition may depend on (R43; the model's own field) -/
  regionLog : List RegionAccess
deriving DecidableEq, Repr

/-- What a word of program memory that `PROGRAM` does not list reads as: R200 speaks of "erased
(zero) program memory". DESIGN CHOICE, log entry 5. -/
abbrev erasedWord : Word := 0

/-- What the outside fixes before a run: the parameters, `PROGRAM` (word i at address i), and a
value for each piece of state R200 leaves unspecified (log entry 2). -/
structure Launch where
  cfg : Config := {}
  program : List Word := []
  regs : Vector Word 8 := Vector.replicate 8 0
  sp : Word := 0
  v : Bool := false
  s : Bool := false
  c : Bool := false
  z : Bool := false
  pfxImm : BitVec 11 := 0
  free : Nat := 0
deriving DecidableEq, Repr

/-- The state right after reset (R33, R200) for a launch. -/
def State.resetWith (l : Launch) : State where
  cfg := l.cfg
  regs := l.regs
  sp := l.sp
  pc := l.cfg.resetPc
  sr := { i := false, v := l.v, s := l.s, c := l.c, z := l.z }
  pfx := { valid := false, imm := l.pfxImm }
  run := .running
  dm := []
  pm := Memory.layout erasedWord 0 (l.program.take 65536)
  free := l.free
  regionLog := []

/-- The state right after reset at the default parameters, with no program placed (log entry 6) and
every unspecified register at zero (DESIGN CHOICE, log entry 2). -/
def State.reset : State := State.resetWith {}

end Sys2Proof.Machine
end

