-- ==== Sys2Proof/Machine/Operands.lean ====
section
/-! DEFINITION. Registers, immediates, effective addresses and conditions (spec/00_scope.md R8, R11;
spec/10_state.md R21 to R23, R28; spec/20_memory.md R45, R55). Sources are read from the state an
instruction starts in, so before anything is written (R8). -/

namespace Sys2Proof.Machine

/-- The place of a register in the register file (R21). -/
def regIndex : Reg → Fin 8
  | .r0 => 0 | .r1 => 1 | .r2 => 2 | .r3 => 3 | .r4 => 4 | .r5 => 5 | .r6 => 6 | .r7 => 7

/-- `R[r]`. No register is hard-wired (R21). -/
def State.reg (s : State) (r : Reg) : Word :=
  s.regs.get (regIndex r)

/-- `R[r] <- v`. -/
def State.setReg (s : State) (r : Reg) (v : Word) : State :=
  { s with regs := s.regs.set (regIndex r).val v (regIndex r).isLt }

/-- `SP <- v`. -/
def State.setSp (s : State) (v : Word) : State :=
  { s with sp := v }

/-- How far one instruction word advances PC (R23). -/
def pcAdvance : PcUnit → Word
  | .instructionWord => 1

/-- `next`, the address of the word after the one being executed, modulo 2^16 (R23, R24). -/
def State.next (s : State) : Word :=
  s.pc + pcAdvance s.cfg.pcUnit

/-- `zext_N` and `sext_N` to 16 bits (R8). -/
def extend {n : Nat} (ext : Ext) (v : BitVec n) : Word :=
  match ext with
  | .zext => v.setWidth 16
  | .sext => v.signExtend 16

/-- `EffImm(field, ext)` (R11, R68): a pending prefix supplies bits 15..5 and keeps the field's low
five bits; without one the field is extended. -/
def State.effImm (s : State) {n : Nat} (field : BitVec n) (ext : Ext) : Word :=
  if s.pfx.valid then s.pfx.imm.setWidth 16 <<< 5 ||| (field.setWidth 16 &&& 0x1F#16)
  else extend ext field

/-- The sum or address `Rs + K` of format I1 (R95). -/
def State.eaRegImm (s : State) (rs : Reg) (k : BitVec 5) : Word :=
  s.reg rs + s.effImm k .zext

/-- The address `&A` of format I2 (R111). -/
def State.eaAbs (s : State) (a : BitVec 8) : Word :=
  s.effImm a s.cfg.absExt

/-- The address `SP + K` of format I2 (R116). -/
def State.eaSp (s : State) (k : BitVec 8) : Word :=
  s.sp + s.effImm k s.cfg.spkExt

/-- The address `Rs + Rn` of format R1 (R142). -/
def State.eaRegReg (s : State) (rs rn : Reg) : Word :=
  s.reg rs + s.reg rn

/-- The base of a PC-relative branch, `BR_BASE` (R125). -/
def State.branchFrom (s : State) : Word :=
  match s.cfg.brBase with
  | .nextWord => s.next
  | .branchWord => s.pc

/-- The target of a PC-relative branch (R125). -/
def State.branchTarget (s : State) (a : BitVec 9) : Word :=
  s.branchFrom + s.effImm a .sext

/-- The target of `call Label` (R91). -/
def State.callTarget (s : State) (a : BitVec 11) : Word :=
  s.effImm a s.cfg.callExt

/-- `Cond(cc)` (R28). -/
def condHolds (cc : Cond) (f : Status) : Bool :=
  match cc with
  | .eq => f.z
  | .ne => !f.z
  | .uge => f.c
  | .ult => !f.c
  | .ge => f.s == f.v
  | .lt => f.s != f.v
  | .ugt => f.c && !f.z
  | .gt => (f.s == f.v) && !f.z

/-- `BorrowIn()` of `subc` and `cmpc` (R136). -/
def State.borrowIn (s : State) : Bool :=
  match s.cfg.subcBorrow with
  | .literal => s.sr.c
  | .chained => !s.sr.c

/-- Bits 7..0 of a word. -/
def lowByte (v : Word) : Byte := v.extractLsb' 0 8

/-- Bits 15..8 of a word. -/
def highByte (v : Word) : Byte := v.extractLsb' 8 8

/-- The word with high byte `hi` and low byte `lo`. -/
def wordOf (hi lo : Byte) : Word := hi.setWidth 16 <<< 8 ||| lo.setWidth 16

end Sys2Proof.Machine
end

