-- ==== Sys2Proof/Machine/Flags.lean ====
section
/-! DEFINITION. The arithmetic primitives and the flags they write (spec/00_scope.md R12 to R14;
spec/10_state.md R26; spec/45_two_reg.md R162). V and S are PRESUMED, log entry 20. -/

namespace Sys2Proof.Machine

/-- What `Add` and `Sub` return: the result and the flags V, S, C, Z. -/
structure Alu where
  r : Word
  v : Bool
  s : Bool
  c : Bool
  z : Bool
deriving DecidableEq, Repr

/-- `Add(a, b, cin)` (R12): the exact sum, then the 16-bit result and the flags. -/
def aluAdd (a b : Word) (cin : Bool) : Alu :=
  let t : Nat := a.toNat + b.toNat + cin.toNat
  let r : Word := BitVec.ofNat 16 t
  { r := r
    c := decide (2 ^ 16 ≤ t)
    v := a.msb == b.msb && r.msb != a.msb
    s := r.msb
    z := r == 0 }

/-- `Sub(a, b, bin)` (R13): the exact difference, then the 16-bit result and the flags; C = 1 means
no borrow. -/
def aluSub (a b : Word) (bin : Bool) : Alu :=
  let t : Int := (a.toNat : Int) - (b.toNat : Int) - (bin.toNat : Int)
  let r : Word := BitVec.ofInt 16 t
  { r := r
    c := decide (0 ≤ t)
    v := a.msb != b.msb && r.msb != a.msb
    s := r.msb
    z := r == 0 }

/-- V, S, C, Z from `Add` or `Sub`; I stays (R26). -/
def State.setArith (s : State) (x : Alu) : State :=
  { s with sr := { i := s.sr.i, v := x.v, s := x.s, c := x.c, z := x.z } }

/-- V, S, C, Z after a logic instruction with result `r` (R14): S and Z from the result, V and C
free values (log entry 7); I stays. -/
def State.setLogic (s : State) (r : Word) : State :=
  { s with
    sr := { i := s.sr.i
            v := Config.freeBit s.free
            s := r.msb
            c := Config.freeBit (s.free + 1)
            z := r == 0 }
    free := s.free + 2 }

/-- V, S, C, Z after a shift that moved `c` out (R162): C is that bit, V, S and Z are free values
(log entry 7); I stays. -/
def State.setShift (s : State) (c : Bool) : State :=
  { s with
    sr := { i := s.sr.i
            v := Config.freeBit s.free
            s := Config.freeBit (s.free + 1)
            c := c
            z := Config.freeBit (s.free + 2) }
    free := s.free + 3 }

/-- `SR.I <- b` (R177, R178). -/
def State.setInterrupt (s : State) (b : Bool) : State :=
  { s with sr := { s.sr with i := b } }

end Sys2Proof.Machine
end

