-- ==== Sys2Proof/Machine/Ops.lean ====
section
/-! DEFINITION. The operations instructions share: ending an instruction, refusing a misplaced
prefix, reading and writing the two memories, the stack (spec/10_state.md R23; spec/20_memory.md R42
to R47; spec/30_encoding.md R70). The machine takes no exception and has no entry procedure: "a
model has no exception-entry procedure to implement" (spec/60_exceptions.md R185). -/

namespace Sys2Proof.Machine

/-- What a step or a meaning answers. -/
abbrev Result := Host.Outcome State Fault Refusal

/-- A stop as an answer. -/
def Stop.result : Stop → Result
  | .fault f => .fault f
  | .refused r => .refused r

/-- Go on with the value of an operation, or stop where it stops. -/
def andThen {α : Type} (x : Except Stop α) (k : α → Result) : Result :=
  match x with
  | .ok v => k v
  | .error e => e.result

/-- End an instruction that assigns PC (R23): the prefix, if any, is used up. -/
def State.jump (s : State) (target : Word) : State :=
  { s with pc := target, pfx := { s.pfx with valid := false } }

/-- End an instruction that does not assign PC (R23). -/
def State.retire (s : State) : State :=
  s.jump s.next

/-- The word of program memory at a word address (R32). -/
def State.pmWord (s : State) (a : Word) : Word :=
  (s.pm.read a.toNat).getD erasedWord

/-- `PMRead(a)` (R46). -/
def State.pmRead (s : State) (a : Word) : Except Stop Word :=
  if a.toNat < s.cfg.pmWords then .ok (s.pmWord a) else .error (.refused (.programOutOfRange a))

/-- Instruction fetch (R47). -/
def State.fetch (s : State) : Except Stop Word :=
  s.pmRead s.pc

/-- The word of the pending prefix, by the encoding of R61. -/
def State.pendingPrefixWord (s : State) : Word :=
  encode (.pfix_k s.pfx.imm)

/-- Refuse while a prefix is pending, recording the prefix and the word at PC (R70, R186); this
check comes before any other (R189). -/
def State.unlessPrefixed (s : State) (k : Result) : Result :=
  if s.pfx.valid then .refused (.prefixMisuse s.pendingPrefixWord (s.pmWord s.pc)) else k

/-- The byte at a data address: what was last written there, or a free value (R50, R56). -/
def State.dmByte (s : State) (a : Word) : Byte :=
  (s.dm.read a.toNat).getD (Config.unwrittenByte a.toNat)

/-- `DM[a] <- b`. -/
def State.setByte (s : State) (a : Word) (b : Byte) : State :=
  { s with dm := s.dm.write a.toNat b }

/-- The region of `MEM_MAP` that holds a data address (R43, R48), the first listed where several
do. -/
def regionOf (c : Config) (a : Word) : Option Region :=
  c.memMap.find? fun g => decide (g.base ≤ a.toNat) && decide (a.toNat < g.base + g.size)

/-- The byte that the access `x` reads at a data address (R43): the answer of the region's own
definition where a region holds the address, else the byte of DM. -/
def State.dataByte (s : State) (x : RegionAccess) (a : Word) : Byte :=
  match regionOf s.cfg a with
  | some g => Config.regionByte g (x :: s.regionLog) a
  | none => s.dmByte a

/-- The access `x` to `bytes` has been made: regions see it, if one holds any of them (R43, log
entry 23). -/
def State.note (s : State) (bytes : List Word) (x : RegionAccess) : State :=
  { s with
    regionLog := if bytes.any fun a => (regionOf s.cfg a).isSome then x :: s.regionLog
      else s.regionLog }

/-- Why a data address may not be accessed: it lies beyond `DM_BYTES` (R43, R44). -/
def dataStop (c : Config) (a : Word) : Option Refusal :=
  if c.dmBytes ≤ a.toNat then some (.dataOutOfRange a) else none

/-- The same for the two bytes of a word at `b`. -/
def wordStop (c : Config) (b : Word) : Option Refusal :=
  match dataStop c b with
  | some r => some r
  | none => dataStop c (b + 1)

/-- The address of the first byte of a word access (R42): none where it is a fault. -/
def wordBase (c : Config) (addr : Word) : Option Word :=
  if addr.getLsbD 0 then
    match c.misaligned with
    | .fault => none
    | .ignoreBit0 => some (addr &&& 0xFFFE#16)
    | .splitBytes => some addr
  else some addr

/-- The word whose byte at the lower address is `first` (R41). -/
def joinBytes (e : Endian) (first second : Byte) : Word :=
  match e with
  | .little => wordOf second first
  | .big => wordOf first second

/-- The byte of a word that lies at the lower address (R41). -/
def firstByte (e : Endian) (v : Word) : Byte :=
  match e with
  | .little => lowByte v
  | .big => highByte v

/-- The byte of a word that lies at the higher address (R41). -/
def secondByte (e : Endian) (v : Word) : Byte :=
  match e with
  | .little => highByte v
  | .big => lowByte v

/-- `MemRead(addr, 1)` (R43): the value, and the state after the access. -/
def State.readByte (s : State) (addr : Word) : Except Stop (Byte × State) :=
  match dataStop s.cfg addr with
  | some r => .error (.refused r)
  | none => .ok (s.dataByte (.readByte addr) addr, s.note [addr] (.readByte addr))

/-- `MemRead(addr, 2)` (R43): the value, and the state after the access. -/
def State.readWord (s : State) (addr : Word) : Except Stop (Word × State) :=
  match wordBase s.cfg addr with
  | none => .error (.fault (.misaligned addr))
  | some b =>
    match wordStop s.cfg b with
    | some r => .error (.refused r)
    | none =>
      .ok (joinBytes s.cfg.endian (s.dataByte (.readWord b) b) (s.dataByte (.readWord b) (b + 1)),
        s.note [b, b + 1] (.readWord b))

/-- `MemWrite(addr, 1, v)` (R44). -/
def State.writeByte (s : State) (addr : Word) (v : Word) : Except Stop State :=
  match dataStop s.cfg addr with
  | some r => .error (.refused r)
  | none => .ok ((s.setByte addr (lowByte v)).note [addr] (.writeByte addr (lowByte v)))

/-- `MemWrite(addr, 2, v)` (R44). -/
def State.writeWord (s : State) (addr : Word) (v : Word) : Except Stop State :=
  match wordBase s.cfg addr with
  | none => .error (.fault (.misaligned addr))
  | some b =>
    match wordStop s.cfg b with
    | some r => .error (.refused r)
    | none =>
      .ok (((s.setByte b (firstByte s.cfg.endian v)).setByte (b + 1)
        (secondByte s.cfg.endian v)).note [b, b + 1] (.writeWord b v))

/-- Load the word at `ea` into Rd (R45). -/
def State.loadWord (s : State) (ea : Word) (rd : Reg) : Result :=
  andThen (s.readWord ea) fun r => .next (r.2.setReg rd r.1).retire

/-- Load the byte at `ea` into Rd, extended (R45). -/
def State.loadByte (s : State) (ea : Word) (ext : Ext) (rd : Reg) : Result :=
  andThen (s.readByte ea) fun r => .next (r.2.setReg rd (extend ext r.1)).retire

/-- Store a word at `ea` (R45). -/
def State.storeWord (s : State) (ea v : Word) : Result :=
  andThen (s.writeWord ea v) fun t => .next t.retire

/-- Store the lower byte of `v` at `ea` (R45). -/
def State.storeByte (s : State) (ea v : Word) : Result :=
  andThen (s.writeByte ea v) fun t => .next t.retire

/-- The address a push stores to: SP less `STACK_STEP` (R170). -/
def State.pushAddr (s : State) : Word :=
  s.sp - s.cfg.stackStep

/-- Decrement SP and store a word at the new SP (R170). -/
def State.pushWord (s : State) (v : Word) : Except Stop State :=
  (s.setSp s.pushAddr).writeWord s.pushAddr v

/-- SP after a pop: SP plus `STACK_STEP` (R171). -/
def State.poppedSp (s : State) : Word :=
  s.sp + s.cfg.stackStep

/-- Push `next` and go to the target (R91, R169). -/
def State.callTo (s : State) (target : Word) : Result :=
  andThen (s.pushWord s.next) fun t => .next (t.jump target)

end Sys2Proof.Machine
end

