-- ==== Sys2Proof/Machine/BranchSp.lean ====
section
/-! DEFINITION. Format J: branch, add to SP, jump (spec/43_branch_addsp.md). -/

namespace Sys2Proof.Machine

/-- `br%cc Label` (R126); a pending prefix is used up whether or not the branch is taken. -/
def execBrCk (cc : Cond) (a : BitVec 9) (s : State) : Result :=
  .next (if condHolds cc s.sr then s.jump (s.branchTarget a) else s.retire)

/-- `add SP, K, SP` (R127). -/
def execAddKq (k : BitVec 9) (s : State) : Result :=
  .next (s.setSp (s.sp + s.effImm k .sext)).retire

/-- `jmp Label` (R128). -/
def execJmpK (a : BitVec 9) (s : State) : Result :=
  .next (s.jump (s.branchTarget a))

end Sys2Proof.Machine
end

