-- ==== Sys2Proof/Machine/Imm8.lean ====
section
/-! DEFINITION. Format I2: the 8-bit immediate instructions (spec/42_imm8.md). -/

namespace Sys2Proof.Machine

/-- `mov K, Rd` (R106). -/
def execMovKr (k : BitVec 8) (rd : Reg) (s : State) : Result :=
  .next (s.setReg rd (s.effImm k .sext)).retire

/-- `cmp Rd, K` (R107). -/
def execCmpRk (rd : Reg) (k : BitVec 8) (s : State) : Result :=
  .next (s.setArith (aluSub (s.reg rd) (s.effImm k .sext) false)).retire

/-- `add Rd, K, Rd` (R108). -/
def execAddKr (rd : Reg) (k : BitVec 8) (s : State) : Result :=
  let x := aluAdd (s.reg rd) (s.effImm k .zext) false
  .next ((s.setReg rd x.r).setArith x).retire

/-- `sub Rd, K, Rd` (R109). -/
def execSubKr (rd : Reg) (k : BitVec 8) (s : State) : Result :=
  let x := aluSub (s.reg rd) (s.effImm k .zext) false
  .next ((s.setReg rd x.r).setArith x).retire

/-- `and Rd, K, Rd` (R110). -/
def execAndKr (rd : Reg) (k : BitVec 8) (s : State) : Result :=
  let r := s.reg rd &&& s.effImm k .zext
  .next ((s.setReg rd r).setLogic r).retire

/-- `ld.w [&A], Rd` (R111). -/
def execMovwAr (a : BitVec 8) (rd : Reg) (s : State) : Result :=
  s.loadWord (s.eaAbs a) rd

/-- `ld.sb [&A], Rd` (R112). -/
def execMovsbAr (a : BitVec 8) (rd : Reg) (s : State) : Result :=
  s.loadByte (s.eaAbs a) .sext rd

/-- `st.w Rd, [&A]` (R113). -/
def execMovwRa (rd : Reg) (a : BitVec 8) (s : State) : Result :=
  s.storeWord (s.eaAbs a) (s.reg rd)

/-- `st.b Rd, [&A]` (R114). -/
def execMovbRa (rd : Reg) (a : BitVec 8) (s : State) : Result :=
  s.storeByte (s.eaAbs a) (s.reg rd)

/-- `lea SP, K, Rd` (R115); the row itself says zero-extended. -/
def execLeaQr (k : BitVec 8) (rd : Reg) (s : State) : Result :=
  .next (s.setReg rd (s.sp + s.effImm k .zext)).retire

/-- `ld.w [SP, K], Rd` (R116). -/
def execMovwQr (k : BitVec 8) (rd : Reg) (s : State) : Result :=
  s.loadWord (s.eaSp k) rd

/-- `ld.sb [SP, K], Rd` (R117). -/
def execMovsbQr (k : BitVec 8) (rd : Reg) (s : State) : Result :=
  s.loadByte (s.eaSp k) .sext rd

/-- `st.w Rd, [SP, K]` (R118). -/
def execMovwRq (rd : Reg) (k : BitVec 8) (s : State) : Result :=
  s.storeWord (s.eaSp k) (s.reg rd)

/-- `st.b Rd, [SP, K]` (R119). -/
def execMovbRq (rd : Reg) (k : BitVec 8) (s : State) : Result :=
  s.storeByte (s.eaSp k) (s.reg rd)

end Sys2Proof.Machine
end

