-- ==== Sys2Proof/Machine/MemImm.lean ====
section
/-! DEFINITION. Format I1: lea and load/store with register + immediate (spec/41_mem_imm_offset.md). -/

namespace Sys2Proof.Machine

/-- `lea Rs, K, Rd` (R96). -/
def execLeaMr (rs : Reg) (k : BitVec 5) (rd : Reg) (s : State) : Result :=
  .next (s.setReg rd (s.eaRegImm rs k)).retire

/-- `ld.w [Rs, K], Rd` (R97). -/
def execMovwMr (rs : Reg) (k : BitVec 5) (rd : Reg) (s : State) : Result :=
  s.loadWord (s.eaRegImm rs k) rd

/-- `ld.zb [Rs, K], Rd` (R98). -/
def execMovzbMr (rs : Reg) (k : BitVec 5) (rd : Reg) (s : State) : Result :=
  s.loadByte (s.eaRegImm rs k) .zext rd

/-- `ld.sb [Rs, K], Rd` (R99). -/
def execMovsbMr (rs : Reg) (k : BitVec 5) (rd : Reg) (s : State) : Result :=
  s.loadByte (s.eaRegImm rs k) .sext rd

/-- `st.w Rd, [Rs, K]` (R100). -/
def execMovwRm (rd : Reg) (rs : Reg) (k : BitVec 5) (s : State) : Result :=
  s.storeWord (s.eaRegImm rs k) (s.reg rd)

/-- `st.b Rd, [Rs, K]` (R101). -/
def execMovbRm (rd : Reg) (rs : Reg) (k : BitVec 5) (s : State) : Result :=
  s.storeByte (s.eaRegImm rs k) (s.reg rd)

end Sys2Proof.Machine
end

