-- ==== Sys2Proof/Machine/PrefixCall.lean ====
section
/-! DEFINITION. Format P: pfix_k and call (spec/40_prefix_call.md). -/

namespace Sys2Proof.Machine

/-- `pfix_k` (R90). A second prefix is refused (R70). -/
def execPfixK (k : BitVec 11) (s : State) : Result :=
  s.unlessPrefixed (.next { s with pc := s.next, pfx := { valid := true, imm := k } })

/-- `call Label` (R91): the return address is the word after the call word, on the stack (log entry
14). -/
def execCall (a : BitVec 11) (s : State) : Result :=
  s.callTo (s.callTarget a)

end Sys2Proof.Machine
end

