-- ==== Sys2Proof/Machine/Reserved.lean ====
section
/-! DEFINITION. The reserved and the "Not implemented" rows of format R2 (spec/45_two_reg.md R160,
R172 to R174, R180): `raise IllegalInstruction(w)`, after the check for a pending prefix
(spec/60_exceptions.md R189, log entries 17 and 18). -/

namespace Sys2Proof.Machine

/-- `raise IllegalInstruction(w)` with the word and PC recorded (R71, R73, R186). -/
def State.illegal (s : State) (w : Word) : Result :=
  s.unlessPrefixed (.fault (.illegalInstruction w s.pc))

/-- Reserved 110_000 (R160). -/
def execReserved110000 (x : BitVec 6) (s : State) : Result :=
  s.illegal (encode (.reserved_110_000 x))

/-- Reserved 011_001 (R180). -/
def execReserved011001 (x : BitVec 6) (s : State) : Result :=
  s.illegal (encode (.reserved_011_001 x))

/-- Reserved 100_001 (R180). -/
def execReserved100001 (x : BitVec 6) (s : State) : Result :=
  s.illegal (encode (.reserved_100_001 x))

/-- Reserved 111_001 (R180). -/
def execReserved111001 (x : BitVec 6) (s : State) : Result :=
  s.illegal (encode (.reserved_111_001 x))

/-- Reserved 100_010 (R172). -/
def execReserved100010 (x : BitVec 6) (s : State) : Result :=
  s.illegal (encode (.reserved_100_010 x))

/-- Reserved 101_010 (R172). -/
def execReserved101010 (x : BitVec 6) (s : State) : Result :=
  s.illegal (encode (.reserved_101_010 x))

/-- `mov SR, Rd`, not implemented (R173). -/
def execMovSr (x : BitVec 3) (rd : Reg) (s : State) : Result :=
  s.illegal (encode (.mov_sr x rd))

/-- `mov Rd, SR`, not implemented (R174). -/
def execMovRs (x : BitVec 3) (rd : Reg) (s : State) : Result :=
  s.illegal (encode (.mov_rs x rd))

/-- Reserved 101_011 (R180). -/
def execReserved101011 (x : BitVec 6) (s : State) : Result :=
  s.illegal (encode (.reserved_101_011 x))

/-- Reserved 110_011 (R180). -/
def execReserved110011 (x : BitVec 6) (s : State) : Result :=
  s.illegal (encode (.reserved_110_011 x))

/-- Reserved 111_011 (R180). -/
def execReserved111011 (x : BitVec 6) (s : State) : Result :=
  s.illegal (encode (.reserved_111_011 x))

/-- Reserved xxx_10x (R180). -/
def execReservedXxx10x (opH : BitVec 3) (x : BitVec 7) (s : State) : Result :=
  s.illegal (encode (.reserved_xxx_10x opH x))

end Sys2Proof.Machine
end

