-- ==== Sys2Proof/Machine/ThreeReg.lean ====
section
/-! DEFINITION. Format R1: three-register ALU, load/store with register offset, select
(spec/44_three_reg.md). None has an immediate, so a pending prefix is refused (R132). -/

namespace Sys2Proof.Machine

/-- `cmp Rs, Rn` (R133). -/
def execCmpRr (rs rn : Reg) (s : State) : Result :=
  s.unlessPrefixed (.next (s.setArith (aluSub (s.reg rs) (s.reg rn) false)).retire)

/-- `cmpc Rs, Rn` (R134). -/
def execCmpcRr (rs rn : Reg) (s : State) : Result :=
  s.unlessPrefixed (.next (s.setArith (aluSub (s.reg rs) (s.reg rn) s.borrowIn)).retire)

/-- `sub Rs, Rn, Rd` (R135). -/
def execSubRrr (rs rn rd : Reg) (s : State) : Result :=
  let x := aluSub (s.reg rs) (s.reg rn) false
  s.unlessPrefixed (.next ((s.setReg rd x.r).setArith x).retire)

/-- `subc Rs, Rn, Rd` (R136). -/
def execSubcRrr (rs rn rd : Reg) (s : State) : Result :=
  let x := aluSub (s.reg rs) (s.reg rn) s.borrowIn
  s.unlessPrefixed (.next ((s.setReg rd x.r).setArith x).retire)

/-- `or Rs, Rn, Rd` (R137). -/
def execOrRrr (rs rn rd : Reg) (s : State) : Result :=
  let r := s.reg rs ||| s.reg rn
  s.unlessPrefixed (.next ((s.setReg rd r).setLogic r).retire)

/-- `and Rs, Rn, Rd` (R138). -/
def execAndRrr (rs rn rd : Reg) (s : State) : Result :=
  let r := s.reg rs &&& s.reg rn
  s.unlessPrefixed (.next ((s.setReg rd r).setLogic r).retire)

/-- `xor Rs, Rn, Rd` (R139). -/
def execXorRrr (rs rn rd : Reg) (s : State) : Result :=
  let r := s.reg rs ^^^ s.reg rn
  s.unlessPrefixed (.next ((s.setReg rd r).setLogic r).retire)

/-- `addc Rs, Rn, Rd` (R140). -/
def execAdcRrr (rs rn rd : Reg) (s : State) : Result :=
  let x := aluAdd (s.reg rs) (s.reg rn) s.sr.c
  s.unlessPrefixed (.next ((s.setReg rd x.r).setArith x).retire)

/-- `add Rs, Rn, Rd` (R141). -/
def execAddRrr (rs rn rd : Reg) (s : State) : Result :=
  let x := aluAdd (s.reg rs) (s.reg rn) false
  s.unlessPrefixed (.next ((s.setReg rd x.r).setArith x).retire)

/-- `ld.w [Rs, Rn], Rd` (R142). -/
def execMovwNr (rs rn rd : Reg) (s : State) : Result :=
  s.unlessPrefixed (s.loadWord (s.eaRegReg rs rn) rd)

/-- `ld.zb [Rs, Rn], Rd` (R143). -/
def execMovzbNr (rs rn rd : Reg) (s : State) : Result :=
  s.unlessPrefixed (s.loadByte (s.eaRegReg rs rn) .zext rd)

/-- `ld.sb [Rs, Rn], Rd` (R144). -/
def execMovsbNr (rs rn rd : Reg) (s : State) : Result :=
  s.unlessPrefixed (s.loadByte (s.eaRegReg rs rn) .sext rd)

/-- `st.w Rd, [Rs, Rn]` (R145). -/
def execMovwRn (rd rs rn : Reg) (s : State) : Result :=
  s.unlessPrefixed (s.storeWord (s.eaRegReg rs rn) (s.reg rd))

/-- `st.b Rd, [Rs, Rn]` (R146). -/
def execMovbRn (rd rs rn : Reg) (s : State) : Result :=
  s.unlessPrefixed (s.storeByte (s.eaRegReg rs rn) (s.reg rd))

/-- `sel%cc Rs, Rn, Rd` (R147). -/
def execSelCrrr (cc : Cond) (rs rn rd : Reg) (s : State) : Result :=
  s.unlessPrefixed
    (.next (s.setReg rd (if condHolds cc s.sr then s.reg rs else s.reg rn)).retire)

end Sys2Proof.Machine
end

