-- ==== Sys2Proof/Machine/TwoReg.lean ====
section
/-! DEFINITION. Format R2, the implemented rows: set, moves, shifts, unary ALU, indirect jump and
call, push, pop, zero-operand instructions (spec/45_two_reg.md). None has an immediate, so a pending
prefix is refused (R152). -/

namespace Sys2Proof.Machine

/-- `set%cc Rd` (R153). -/
def execSetCr (cc : Cond) (rd : Reg) (s : State) : Result :=
  s.unlessPrefixed (.next (s.setReg rd (if condHolds cc s.sr then 1 else 0)).retire)

/-- `mov Rs, Rd` (R154); with Rs = Rd = 0 it is the NOP (R75). -/
def execMovRr (rs rd : Reg) (s : State) : Result :=
  s.unlessPrefixed (.next (s.setReg rd (s.reg rs)).retire)

/-- `mov Rs, SP` (R155). -/
def execMovRq (rs : Reg) (s : State) : Result :=
  s.unlessPrefixed (.next (s.setSp (s.reg rs)).retire)

/-- `zext Rs, Rd` (R156). -/
def execZextRr (rs rd : Reg) (s : State) : Result :=
  s.unlessPrefixed (.next (s.setReg rd (extend .zext (lowByte (s.reg rs)))).retire)

/-- `sext Rs, Rd` (R157). -/
def execSextRr (rs rd : Reg) (s : State) : Result :=
  s.unlessPrefixed (.next (s.setReg rd (extend .sext (lowByte (s.reg rs)))).retire)

/-- `bswap Rs, Rd` (R158). -/
def execBswapRr (rs rd : Reg) (s : State) : Result :=
  s.unlessPrefixed
    (.next (s.setReg rd (wordOf (lowByte (s.reg rs)) (highByte (s.reg rs)))).retire)

/-- `sextw Rs, Rd` (R159). -/
def execSextwRr (rs rd : Reg) (s : State) : Result :=
  s.unlessPrefixed (.next (s.setReg rd (if (s.reg rs).msb then 0xFFFF#16 else 0)).retire)

/-- `ld.w` with the program-memory operand Rs (R161). -/
def execMovwPr (rs rd : Reg) (s : State) : Result :=
  s.unlessPrefixed (andThen (s.pmRead (s.reg rs)) fun v => .next (s.setReg rd v).retire)

/-- A right shift by one with `top` entering bit 15: bit 0 goes to C (R162). -/
def State.shiftRight (s : State) (rs rd : Reg) (top : Bool) : Result :=
  let v := s.reg rs
  let r : Word := (v >>> 1) ||| (if top then 0x8000#16 else 0)
  s.unlessPrefixed (.next ((s.setReg rd r).setShift (v.getLsbD 0)).retire)

/-- `lsr Rs, Rd` (R163). -/
def execLsrRr (rs rd : Reg) (s : State) : Result :=
  s.shiftRight rs rd false

/-- `lsrc Rs, Rd` (R164). -/
def execLsrcRr (rs rd : Reg) (s : State) : Result :=
  s.shiftRight rs rd s.sr.c

/-- `asr Rs, Rd` (R165). -/
def execAsrRr (rs rd : Reg) (s : State) : Result :=
  s.shiftRight rs rd (s.reg rs).msb

/-- `neg Rs, Rd` (R166). -/
def execNegRr (rs rd : Reg) (s : State) : Result :=
  let x := aluSub 0 (s.reg rs) false
  s.unlessPrefixed (.next ((s.setReg rd x.r).setArith x).retire)

/-- `not Rs, Rd` (R167). -/
def execNotRr (rs rd : Reg) (s : State) : Result :=
  let r := ~~~ (s.reg rs)
  s.unlessPrefixed (.next ((s.setReg rd r).setLogic r).retire)

/-- `jmp Rd` (R168): an absolute word address. -/
def execJmpR (rd : Reg) (s : State) : Result :=
  s.unlessPrefixed (.next (s.jump (s.reg rd)))

/-- `call Rd` (R169). -/
def execCallR (rd : Reg) (s : State) : Result :=
  s.unlessPrefixed (s.callTo (s.reg rd))

/-- `push Rd` (R170). -/
def execPushR (rd : Reg) (s : State) : Result :=
  s.unlessPrefixed (andThen (s.pushWord (s.reg rd)) fun t => .next t.retire)

/-- `pop Rd` (R171). -/
def execPopR (rd : Reg) (s : State) : Result :=
  s.unlessPrefixed
    (andThen (s.readWord s.sp) fun r => .next ((r.2.setReg rd r.1).setSp s.poppedSp).retire)

/-- `ret` (R175): a pop into PC (log entry 14). -/
def execRet (s : State) : Result :=
  s.unlessPrefixed
    (andThen (s.readWord s.sp) fun r => .next ((r.2.setSp s.poppedSp).jump r.1))

/-- `reti` (R176): refused under the one `IRQ_MODEL` the spec describes (log entry 15). -/
def execReti (s : State) : Result :=
  s.unlessPrefixed
    (match s.cfg.irqModel with
    | .none => .refused .returnFromInterrupt)

/-- `dint` (R177). -/
def execDint (s : State) : Result :=
  s.unlessPrefixed (.next (s.setInterrupt false).retire)

/-- `eint` (R178). -/
def execEint (s : State) : Result :=
  s.unlessPrefixed (.next (s.setInterrupt true).retire)

/-- `halt` (R179): RUN becomes halted, PC holds `next` (log entry 16). -/
def execHalt (s : State) : Result :=
  s.unlessPrefixed (.next { s.retire with run := .halted })

end Sys2Proof.Machine
end

