-- ==== Sys2Proof/Machine/Dispatch.lean ====
section
/-! DEFINITION. One arm per instruction: spec/30_encoding.md R84, "otherwise execute the row's rule". -/

namespace Sys2Proof.Machine

def exec (i : Instr) (s : State) : Host.Outcome State Fault Refusal :=
  match i with
  | .pfix_k k => Sys2Proof.Machine.execPfixK k s
  | .call a => Sys2Proof.Machine.execCall a s
  | .lea_mr rs k rd => Sys2Proof.Machine.execLeaMr rs k rd s
  | .movw_mr rs k rd => Sys2Proof.Machine.execMovwMr rs k rd s
  | .movzb_mr rs k rd => Sys2Proof.Machine.execMovzbMr rs k rd s
  | .movsb_mr rs k rd => Sys2Proof.Machine.execMovsbMr rs k rd s
  | .movw_rm rd rs k => Sys2Proof.Machine.execMovwRm rd rs k s
  | .movb_rm rd rs k => Sys2Proof.Machine.execMovbRm rd rs k s
  | .mov_kr k rd => Sys2Proof.Machine.execMovKr k rd s
  | .cmp_rk rd k => Sys2Proof.Machine.execCmpRk rd k s
  | .add_kr rd k => Sys2Proof.Machine.execAddKr rd k s
  | .sub_kr rd k => Sys2Proof.Machine.execSubKr rd k s
  | .and_kr rd k => Sys2Proof.Machine.execAndKr rd k s
  | .movw_ar a rd => Sys2Proof.Machine.execMovwAr a rd s
  | .movsb_ar a rd => Sys2Proof.Machine.execMovsbAr a rd s
  | .movw_ra rd a => Sys2Proof.Machine.execMovwRa rd a s
  | .movb_ra rd a => Sys2Proof.Machine.execMovbRa rd a s
  | .lea_qr k rd => Sys2Proof.Machine.execLeaQr k rd s
  | .movw_qr k rd => Sys2Proof.Machine.execMovwQr k rd s
  | .movsb_qr k rd => Sys2Proof.Machine.execMovsbQr k rd s
  | .movw_rq rd k => Sys2Proof.Machine.execMovwRq rd k s
  | .movb_rq rd k => Sys2Proof.Machine.execMovbRq rd k s
  | .br_ck cc a => Sys2Proof.Machine.execBrCk cc a s
  | .add_kq k => Sys2Proof.Machine.execAddKq k s
  | .jmp_k a => Sys2Proof.Machine.execJmpK a s
  | .cmp_rr rs rn => Sys2Proof.Machine.execCmpRr rs rn s
  | .cmpc_rr rs rn => Sys2Proof.Machine.execCmpcRr rs rn s
  | .sub_rrr rs rn rd => Sys2Proof.Machine.execSubRrr rs rn rd s
  | .subc_rrr rs rn rd => Sys2Proof.Machine.execSubcRrr rs rn rd s
  | .or_rrr rs rn rd => Sys2Proof.Machine.execOrRrr rs rn rd s
  | .and_rrr rs rn rd => Sys2Proof.Machine.execAndRrr rs rn rd s
  | .xor_rrr rs rn rd => Sys2Proof.Machine.execXorRrr rs rn rd s
  | .adc_rrr rs rn rd => Sys2Proof.Machine.execAdcRrr rs rn rd s
  | .add_rrr rs rn rd => Sys2Proof.Machine.execAddRrr rs rn rd s
  | .movw_nr rs rn rd => Sys2Proof.Machine.execMovwNr rs rn rd s
  | .movzb_nr rs rn rd => Sys2Proof.Machine.execMovzbNr rs rn rd s
  | .movsb_nr rs rn rd => Sys2Proof.Machine.execMovsbNr rs rn rd s
  | .movw_rn rd rs rn => Sys2Proof.Machine.execMovwRn rd rs rn s
  | .movb_rn rd rs rn => Sys2Proof.Machine.execMovbRn rd rs rn s
  | .sel_crrr cc rs rn rd => Sys2Proof.Machine.execSelCrrr cc rs rn rd s
  | .set_cr cc rd => Sys2Proof.Machine.execSetCr cc rd s
  | .mov_rr rs rd => Sys2Proof.Machine.execMovRr rs rd s
  | .mov_rq rs => Sys2Proof.Machine.execMovRq rs s
  | .zext_rr rs rd => Sys2Proof.Machine.execZextRr rs rd s
  | .sext_rr rs rd => Sys2Proof.Machine.execSextRr rs rd s
  | .bswap_rr rs rd => Sys2Proof.Machine.execBswapRr rs rd s
  | .sextw_rr rs rd => Sys2Proof.Machine.execSextwRr rs rd s
  | .reserved_110_000 x => Sys2Proof.Machine.execReserved110000 x s
  | .movw_pr rs rd => Sys2Proof.Machine.execMovwPr rs rd s
  | .lsr_rr rs rd => Sys2Proof.Machine.execLsrRr rs rd s
  | .lsrc_rr rs rd => Sys2Proof.Machine.execLsrcRr rs rd s
  | .asr_rr rs rd => Sys2Proof.Machine.execAsrRr rs rd s
  | .reserved_011_001 x => Sys2Proof.Machine.execReserved011001 x s
  | .reserved_100_001 x => Sys2Proof.Machine.execReserved100001 x s
  | .neg_rr rs rd => Sys2Proof.Machine.execNegRr rs rd s
  | .not_rr rs rd => Sys2Proof.Machine.execNotRr rs rd s
  | .reserved_111_001 x => Sys2Proof.Machine.execReserved111001 x s
  | .jmp_r rd => Sys2Proof.Machine.execJmpR rd s
  | .call_r rd => Sys2Proof.Machine.execCallR rd s
  | .push_r rd => Sys2Proof.Machine.execPushR rd s
  | .pop_r rd => Sys2Proof.Machine.execPopR rd s
  | .reserved_100_010 x => Sys2Proof.Machine.execReserved100010 x s
  | .reserved_101_010 x => Sys2Proof.Machine.execReserved101010 x s
  | .mov_sr x rd => Sys2Proof.Machine.execMovSr x rd s
  | .mov_rs x rd => Sys2Proof.Machine.execMovRs x rd s
  | .ret => Sys2Proof.Machine.execRet s
  | .reti => Sys2Proof.Machine.execReti s
  | .dint => Sys2Proof.Machine.execDint s
  | .eint => Sys2Proof.Machine.execEint s
  | .halt => Sys2Proof.Machine.execHalt s
  | .reserved_101_011 x => Sys2Proof.Machine.execReserved101011 x s
  | .reserved_110_011 x => Sys2Proof.Machine.execReserved110011 x s
  | .reserved_111_011 x => Sys2Proof.Machine.execReserved111011 x s
  | .reserved_xxx_10x opH x => Sys2Proof.Machine.execReservedXxx10x opH x s

end Sys2Proof.Machine
end

