-- ==== Sys2Proof/Machine/Step.lean ====
section
/-! DEFINITION. One step (spec/10_state.md R23): fetch, decode, execute. -/

namespace Sys2Proof.Machine

/-- Fetch the word at PC, decode it, execute it. A halted machine executes nothing and keeps its
state (R30, R197, log entry 16). -/
def step (s : State) : Host.Outcome State Fault Refusal :=
  match s.run with
  | .halted => .next s
  | .running =>
    andThen s.fetch fun w =>
      match decode w with
      | .ok i => exec i s
      | .error _ => .refused (.undecodable w)

/-- The state with the instruction of `nbits` bits `w` in program memory at PC and the machine
running, so that the next step fetches and runs it (log entry 6). -/
def State.withFetchWord (s : State) (nbits w : Nat) : State :=
  { s with
    run := .running
    pm := s.pm.writeOmitting erasedWord s.pc.toNat (BitVec.ofNat 16 (w % 2 ^ nbits)) }

end Sys2Proof.Machine
end

