-- ==== Sys2Proof/WellFormed.lean ====
section
/-! DEFINITION. What a program may hold: implemented instructions (spec/opcode_table.json, column
`status`; spec/30_encoding.md R71, R73), and after a prefix only an instruction that takes one
(column `prefixable`; R69, R70). Operand ranges are the types' own. -/

namespace Sys2Proof

/-- The `status` column: false for the reserved and the "Not implemented" rows. -/
def Instr.implemented : Instr → Bool
  | .reserved_110_000 _ | .reserved_011_001 _ | .reserved_100_001 _ | .reserved_111_001 _
  | .reserved_100_010 _ | .reserved_101_010 _ | .reserved_101_011 _ | .reserved_110_011 _
  | .reserved_111_011 _ | .reserved_xxx_10x _ _ | .mov_sr _ _ | .mov_rs _ _ => false
  | .pfix_k _ | .call _ | .lea_mr _ _ _ | .movw_mr _ _ _ | .movzb_mr _ _ _ | .movsb_mr _ _ _
  | .movw_rm _ _ _ | .movb_rm _ _ _ | .mov_kr _ _ | .cmp_rk _ _ | .add_kr _ _ | .sub_kr _ _
  | .and_kr _ _ | .movw_ar _ _ | .movsb_ar _ _ | .movw_ra _ _ | .movb_ra _ _ | .lea_qr _ _
  | .movw_qr _ _ | .movsb_qr _ _ | .movw_rq _ _ | .movb_rq _ _ | .br_ck _ _ | .add_kq _ | .jmp_k _
  | .cmp_rr _ _ | .cmpc_rr _ _ | .sub_rrr _ _ _ | .subc_rrr _ _ _ | .or_rrr _ _ _ | .and_rrr _ _ _
  | .xor_rrr _ _ _ | .adc_rrr _ _ _ | .add_rrr _ _ _ | .movw_nr _ _ _ | .movzb_nr _ _ _
  | .movsb_nr _ _ _ | .movw_rn _ _ _ | .movb_rn _ _ _ | .sel_crrr _ _ _ _ | .set_cr _ _
  | .mov_rr _ _ | .mov_rq _ | .zext_rr _ _ | .sext_rr _ _ | .bswap_rr _ _ | .sextw_rr _ _
  | .movw_pr _ _ | .lsr_rr _ _ | .lsrc_rr _ _ | .asr_rr _ _ | .neg_rr _ _ | .not_rr _ _
  | .jmp_r _ | .call_r _ | .push_r _ | .pop_r _ | .ret | .reti | .dint | .eint | .halt => true

/-- The `prefixable` column: the instructions with an immediate field (R69). -/
def Instr.prefixable : Instr → Bool
  | .call _ | .lea_mr _ _ _ | .movw_mr _ _ _ | .movzb_mr _ _ _ | .movsb_mr _ _ _
  | .movw_rm _ _ _ | .movb_rm _ _ _ | .mov_kr _ _ | .cmp_rk _ _ | .add_kr _ _ | .sub_kr _ _
  | .and_kr _ _ | .movw_ar _ _ | .movsb_ar _ _ | .movw_ra _ _ | .movb_ra _ _ | .lea_qr _ _
  | .movw_qr _ _ | .movsb_qr _ _ | .movw_rq _ _ | .movb_rq _ _ | .br_ck _ _ | .add_kq _
  | .jmp_k _ => true
  | .pfix_k _
  | .cmp_rr _ _ | .cmpc_rr _ _ | .sub_rrr _ _ _ | .subc_rrr _ _ _ | .or_rrr _ _ _ | .and_rrr _ _ _
  | .xor_rrr _ _ _ | .adc_rrr _ _ _ | .add_rrr _ _ _ | .movw_nr _ _ _ | .movzb_nr _ _ _
  | .movsb_nr _ _ _ | .movw_rn _ _ _ | .movb_rn _ _ _ | .sel_crrr _ _ _ _ | .set_cr _ _
  | .mov_rr _ _ | .mov_rq _ | .zext_rr _ _ | .sext_rr _ _ | .bswap_rr _ _ | .sextw_rr _ _
  | .movw_pr _ _ | .lsr_rr _ _ | .lsrc_rr _ _ | .asr_rr _ _ | .neg_rr _ _ | .not_rr _ _
  | .jmp_r _ | .call_r _ | .push_r _ | .pop_r _ | .ret | .reti | .dint | .eint | .halt
  | .reserved_110_000 _ | .reserved_011_001 _ | .reserved_100_001 _ | .reserved_111_001 _
  | .reserved_100_010 _ | .reserved_101_010 _ | .reserved_101_011 _ | .reserved_110_011 _
  | .reserved_111_011 _ | .reserved_xxx_10x _ _ | .mov_sr _ _ | .mov_rs _ _ => false

/-- An instruction a program may hold. -/
abbrev Instr.WellFormed (i : Instr) : Prop := i.implemented = true

/-- Whether the instruction is the prefix (spec/40_prefix_call.md R90). -/
def Instr.isPrefix (i : Instr) : Bool :=
  match i with
  | .pfix_k _ => true
  | _ => false

/-- Two instructions in a row: what follows a prefix must take an immediate (R70, R80). -/
abbrev Instr.WellFormedPair (first second : Instr) : Prop :=
  first.WellFormed ∧ second.WellFormed ∧
    (first.isPrefix = true → second.prefixable = true)

end Sys2Proof
end

