-- ==== Sys2Proof/Machine/Assembly.lean ====
section
/-! DEFINITION. The assembler's spellings and expansions (spec/30_encoding.md R76 to R83), as data: a
line is a stem, a condition and operands. Comments, numbers and labels have no syntax in the source,
so a line carries their values (log entry 29). Nothing the machine does depends on this file. -/

namespace Sys2Proof.Machine

/-- The conditions an assembler line may name (R78): the eight of the machine and the two that exist
in the assembler only. -/
inductive CondName where
  | machine (cc : Cond)
  | ule
  | le
deriving DecidableEq, Repr

/-- The names of a condition, the machine name first (spec/10_state.md R28). -/
def CondName.names : CondName → List String
  | .machine .eq => ["eq", "z"]
  | .machine .ne => ["ne", "nz"]
  | .machine .uge => ["uge", "hs", "c"]
  | .machine .ult => ["ult", "lo", "nc"]
  | .machine .ge => ["ge"]
  | .machine .lt => ["lt"]
  | .machine .ugt => ["ugt", "hi"]
  | .machine .gt => ["gt"]
  | .ule => ["ule", "ls"]
  | .le => ["le"]

/-- The condition whose opposite it is implemented as (R28, R81); none for the machine's own. -/
def CondName.oppositeOf : CondName → Option Cond
  | .machine _ => none
  | .ule => some .ugt
  | .le => some .gt

/-- Operands (R77). The `long` ones ask for a prefix: `#K`, `&A`, `&Label`. -/
inductive AsmOperand where
  /-- `Rd`, `Rs`, `Rn` -/
  | reg (r : Reg)
  /-- `SP` -/
  | sp
  /-- `SR` -/
  | sr
  /-- `K` -/
  | imm (k : Int)
  /-- `#K` -/
  | longImm (x : Word)
  /-- `[Rs, K]` -/
  | regImm (rs : Reg) (k : Int)
  /-- `[Rs, #K]` -/
  | regLong (rs : Reg) (x : Word)
  /-- `[Rs, Rn]` -/
  | regReg (rs rn : Reg)
  /-- `[SP, K]` -/
  | spImm (k : Int)
  /-- `[SP, #K]` -/
  | spLong (x : Word)
  /-- `[A]` -/
  | absolute (a : Int)
  /-- `[&A]` -/
  | longAbsolute (x : Word)
  /-- Rs in braces: a word of program memory -/
  | program (rs : Reg)
  /-- `Label` as the value of the field: an offset for `br` and `jmp`, an address for `call` -/
  | label (v : Int)
  /-- `&Label`, or a label whose offset needs 16 bits -/
  | longLabel (x : Word)
deriving DecidableEq, Repr

/-- A line of assembly: the stem of the mnemonic, the condition joined to it, and the operands,
sources first (R76, R78). -/
structure AsmLine where
  stem : String
  cond : Option CondName := none
  operands : List AsmOperand := []
deriving DecidableEq, Repr

/-- Which operand an immediate makes: the field as `K`, or 16 bits as `#K` (R77). -/
def immOperand (long : Option Word) (k : Int) : AsmOperand :=
  match long with
  | none => .imm k
  | some x => .longImm x

/-- `[Rs, K]` or `[Rs, #K]`. -/
def regImmOperand (long : Option Word) (rs : Reg) (k : Int) : AsmOperand :=
  match long with
  | none => .regImm rs k
  | some x => .regLong rs x

/-- `[SP, K]` or `[SP, #K]`. -/
def spImmOperand (long : Option Word) (k : Int) : AsmOperand :=
  match long with
  | none => .spImm k
  | some x => .spLong x

/-- `[A]` or `[&A]`. -/
def absoluteOperand (long : Option Word) (a : Int) : AsmOperand :=
  match long with
  | none => .absolute a
  | some x => .longAbsolute x

/-- `Label` or `&Label`. -/
def labelOperand (long : Option Word) (v : Int) : AsmOperand :=
  match long with
  | none => .label v
  | some x => .longLabel x

/-- The assembly of an instruction (R76, R77, R83, column `assembly` of the table), with its own
immediate or with a 16-bit one that a prefix supplies (R80). None for what the assembler has no
mnemonic for: `pfix_k` (spec/40_prefix_call.md R90) and the reserved rows. DESIGN CHOICE: an
unprefixed A, K of `[SP, K]` and `call Label` is written as the unsigned value of its field, whatever
`ABS_EXT`, `SPK_EXT` and `CALL_EXT` are; which values the assembler takes there is open
(spec/92_eei_decisions.md D7 to D9; log entry 29). -/
def assemblyWith (long : Option Word) : Instr → Option AsmLine
  | .pfix_k _ => none
  | .call a => some ⟨"call", none, [labelOperand long a.toNat]⟩
  | .lea_mr rs k rd => some ⟨"lea", none, [.reg rs, immOperand long k.toNat, .reg rd]⟩
  | .movw_mr rs k rd => some ⟨"ld.w", none, [regImmOperand long rs k.toNat, .reg rd]⟩
  | .movzb_mr rs k rd => some ⟨"ld.zb", none, [regImmOperand long rs k.toNat, .reg rd]⟩
  | .movsb_mr rs k rd => some ⟨"ld.sb", none, [regImmOperand long rs k.toNat, .reg rd]⟩
  | .movw_rm rd rs k => some ⟨"st.w", none, [.reg rd, regImmOperand long rs k.toNat]⟩
  | .movb_rm rd rs k => some ⟨"st.b", none, [.reg rd, regImmOperand long rs k.toNat]⟩
  | .mov_kr k rd => some ⟨"mov", none, [immOperand long k.toInt, .reg rd]⟩
  | .cmp_rk rd k => some ⟨"cmp", none, [.reg rd, immOperand long k.toInt]⟩
  | .add_kr rd k => some ⟨"add", none, [.reg rd, immOperand long k.toNat, .reg rd]⟩
  | .sub_kr rd k => some ⟨"sub", none, [.reg rd, immOperand long k.toNat, .reg rd]⟩
  | .and_kr rd k => some ⟨"and", none, [.reg rd, immOperand long k.toNat, .reg rd]⟩
  | .movw_ar a rd => some ⟨"ld.w", none, [absoluteOperand long a.toNat, .reg rd]⟩
  | .movsb_ar a rd => some ⟨"ld.sb", none, [absoluteOperand long a.toNat, .reg rd]⟩
  | .movw_ra rd a => some ⟨"st.w", none, [.reg rd, absoluteOperand long a.toNat]⟩
  | .movb_ra rd a => some ⟨"st.b", none, [.reg rd, absoluteOperand long a.toNat]⟩
  | .lea_qr k rd => some ⟨"lea", none, [.sp, immOperand long k.toNat, .reg rd]⟩
  | .movw_qr k rd => some ⟨"ld.w", none, [spImmOperand long k.toNat, .reg rd]⟩
  | .movsb_qr k rd => some ⟨"ld.sb", none, [spImmOperand long k.toNat, .reg rd]⟩
  | .movw_rq rd k => some ⟨"st.w", none, [.reg rd, spImmOperand long k.toNat]⟩
  | .movb_rq rd k => some ⟨"st.b", none, [.reg rd, spImmOperand long k.toNat]⟩
  | .br_ck cc a => some ⟨"br", some (.machine cc), [labelOperand long a.toInt]⟩
  | .add_kq k => some ⟨"add", none, [.sp, immOperand long k.toInt, .sp]⟩
  | .jmp_k a => some ⟨"jmp", none, [labelOperand long a.toInt]⟩
  | .cmp_rr rs rn => some ⟨"cmp", none, [.reg rs, .reg rn]⟩
  | .cmpc_rr rs rn => some ⟨"cmpc", none, [.reg rs, .reg rn]⟩
  | .sub_rrr rs rn rd => some ⟨"sub", none, [.reg rs, .reg rn, .reg rd]⟩
  | .subc_rrr rs rn rd => some ⟨"subc", none, [.reg rs, .reg rn, .reg rd]⟩
  | .or_rrr rs rn rd => some ⟨"or", none, [.reg rs, .reg rn, .reg rd]⟩
  | .and_rrr rs rn rd => some ⟨"and", none, [.reg rs, .reg rn, .reg rd]⟩
  | .xor_rrr rs rn rd => some ⟨"xor", none, [.reg rs, .reg rn, .reg rd]⟩
  | .adc_rrr rs rn rd => some ⟨"addc", none, [.reg rs, .reg rn, .reg rd]⟩
  | .add_rrr rs rn rd => some ⟨"add", none, [.reg rs, .reg rn, .reg rd]⟩
  | .movw_nr rs rn rd => some ⟨"ld.w", none, [.regReg rs rn, .reg rd]⟩
  | .movzb_nr rs rn rd => some ⟨"ld.zb", none, [.regReg rs rn, .reg rd]⟩
  | .movsb_nr rs rn rd => some ⟨"ld.sb", none, [.regReg rs rn, .reg rd]⟩
  | .movw_rn rd rs rn => some ⟨"st.w", none, [.reg rd, .regReg rs rn]⟩
  | .movb_rn rd rs rn => some ⟨"st.b", none, [.reg rd, .regReg rs rn]⟩
  | .sel_crrr cc rs rn rd => some ⟨"sel", some (.machine cc), [.reg rs, .reg rn, .reg rd]⟩
  | .set_cr cc rd => some ⟨"set", some (.machine cc), [.reg rd]⟩
  | .mov_rr rs rd => some ⟨"mov", none, [.reg rs, .reg rd]⟩
  | .mov_rq rs => some ⟨"mov", none, [.reg rs, .sp]⟩
  | .zext_rr rs rd => some ⟨"zext", none, [.reg rs, .reg rd]⟩
  | .sext_rr rs rd => some ⟨"sext", none, [.reg rs, .reg rd]⟩
  | .bswap_rr rs rd => some ⟨"bswap", none, [.reg rs, .reg rd]⟩
  | .sextw_rr rs rd => some ⟨"sextw", none, [.reg rs, .reg rd]⟩
  | .movw_pr rs rd => some ⟨"ld.w", none, [.program rs, .reg rd]⟩
  | .lsr_rr rs rd => some ⟨"lsr", none, [.reg rs, .reg rd]⟩
  | .lsrc_rr rs rd => some ⟨"lsrc", none, [.reg rs, .reg rd]⟩
  | .asr_rr rs rd => some ⟨"asr", none, [.reg rs, .reg rd]⟩
  | .neg_rr rs rd => some ⟨"neg", none, [.reg rs, .reg rd]⟩
  | .not_rr rs rd => some ⟨"not", none, [.reg rs, .reg rd]⟩
  | .jmp_r rd => some ⟨"jmp", none, [.reg rd]⟩
  | .call_r rd => some ⟨"call", none, [.reg rd]⟩
  | .push_r rd => some ⟨"push", none, [.reg rd]⟩
  | .pop_r rd => some ⟨"pop", none, [.reg rd]⟩
  | .mov_sr _ rd => some ⟨"mov", none, [.sr, .reg rd]⟩
  | .mov_rs _ rd => some ⟨"mov", none, [.reg rd, .sr]⟩
  | .ret => some ⟨"ret", none, []⟩
  | .reti => some ⟨"reti", none, []⟩
  | .dint => some ⟨"dint", none, []⟩
  | .eint => some ⟨"eint", none, []⟩
  | .halt => some ⟨"halt", none, []⟩
  | .reserved_110_000 _ | .reserved_011_001 _ | .reserved_100_001 _ | .reserved_111_001 _
  | .reserved_100_010 _ | .reserved_101_010 _ | .reserved_101_011 _ | .reserved_110_011 _
  | .reserved_111_011 _ | .reserved_xxx_10x _ _ => none

/-- The other stems of the summary (R82). -/
def stemAlias (stem : String) : Option String :=
  if stem = "sext" then some "sxtb" else if stem = "sextw" then some "sxtw" else none

/-- The instruction with its immediate field set to five bits, the bits a prefix replaces being 0
(R69, R80); none where there is no immediate. -/
def withLowImmediate (b : BitVec 5) : Instr → Option Instr
  | .call _ => some (.call (b.setWidth 11))
  | .lea_mr rs _ rd => some (.lea_mr rs b rd)
  | .movw_mr rs _ rd => some (.movw_mr rs b rd)
  | .movzb_mr rs _ rd => some (.movzb_mr rs b rd)
  | .movsb_mr rs _ rd => some (.movsb_mr rs b rd)
  | .movw_rm rd rs _ => some (.movw_rm rd rs b)
  | .movb_rm rd rs _ => some (.movb_rm rd rs b)
  | .mov_kr _ rd => some (.mov_kr (b.setWidth 8) rd)
  | .cmp_rk rd _ => some (.cmp_rk rd (b.setWidth 8))
  | .add_kr rd _ => some (.add_kr rd (b.setWidth 8))
  | .sub_kr rd _ => some (.sub_kr rd (b.setWidth 8))
  | .and_kr rd _ => some (.and_kr rd (b.setWidth 8))
  | .movw_ar _ rd => some (.movw_ar (b.setWidth 8) rd)
  | .movsb_ar _ rd => some (.movsb_ar (b.setWidth 8) rd)
  | .movw_ra rd _ => some (.movw_ra rd (b.setWidth 8))
  | .movb_ra rd _ => some (.movb_ra rd (b.setWidth 8))
  | .lea_qr _ rd => some (.lea_qr (b.setWidth 8) rd)
  | .movw_qr _ rd => some (.movw_qr (b.setWidth 8) rd)
  | .movsb_qr _ rd => some (.movsb_qr (b.setWidth 8) rd)
  | .movw_rq rd _ => some (.movw_rq rd (b.setWidth 8))
  | .movb_rq rd _ => some (.movb_rq rd (b.setWidth 8))
  | .br_ck cc _ => some (.br_ck cc (b.setWidth 9))
  | .add_kq _ => some (.add_kq (b.setWidth 9))
  | .jmp_k _ => some (.jmp_k (b.setWidth 9))
  | .pfix_k _
  | .cmp_rr _ _ | .cmpc_rr _ _ | .sub_rrr _ _ _ | .subc_rrr _ _ _ | .or_rrr _ _ _ | .and_rrr _ _ _
  | .xor_rrr _ _ _ | .adc_rrr _ _ _ | .add_rrr _ _ _ | .movw_nr _ _ _ | .movzb_nr _ _ _
  | .movsb_nr _ _ _ | .movw_rn _ _ _ | .movb_rn _ _ _ | .sel_crrr _ _ _ _ | .set_cr _ _
  | .mov_rr _ _ | .mov_rq _ | .zext_rr _ _ | .sext_rr _ _ | .bswap_rr _ _ | .sextw_rr _ _
  | .movw_pr _ _ | .lsr_rr _ _ | .lsrc_rr _ _ | .asr_rr _ _ | .neg_rr _ _ | .not_rr _ _
  | .jmp_r _ | .call_r _ | .push_r _ | .pop_r _ | .ret | .reti | .dint | .eint | .halt
  | .reserved_110_000 _ | .reserved_011_001 _ | .reserved_100_001 _ | .reserved_111_001 _
  | .reserved_100_010 _ | .reserved_101_010 _ | .reserved_101_011 _ | .reserved_110_011 _
  | .reserved_111_011 _ | .reserved_xxx_10x _ _ | .mov_sr _ _ | .mov_rs _ _ => none

/-- What a program for the assembler may hold: an instruction in its own spelling, an instruction
with a 16-bit operand, the pseudo-instructions and the two assembler-only selects (R79 to R81). -/
inductive AsmSource where
  | core (i : Instr)
  | long (i : Instr) (x : Word)
  | nop
  | lsl (rs rd : Reg)
  | selUle (rs rn rd : Reg)
  | selLe (rs rn rd : Reg)
deriving DecidableEq, Repr

/-- The line it is written as. -/
def AsmSource.line : AsmSource → Option AsmLine
  | .core i => assemblyWith none i
  | .long i x => if i.prefixable then assemblyWith (some x) i else none
  | .nop => some ⟨"nop", none, []⟩
  | .lsl rs rd => some ⟨"lsl", none, [.reg rs, .reg rd]⟩
  | .selUle rs rn rd => some ⟨"sel", some .ule, [.reg rs, .reg rn, .reg rd]⟩
  | .selLe rs rn rd => some ⟨"sel", some .le, [.reg rs, .reg rn, .reg rd]⟩

/-- The instructions the assembler makes of it (R79, R80, R81); none where it makes none. DESIGN
CHOICE: `mov SR, Rd` and `mov Rd, SR` have a line and expand to none; R73 and R83 list them as not
implemented and do not say whether the assembler accepts them (log entry 29). -/
def AsmSource.expand : AsmSource → Option (List Instr)
  | .core i => if i.implemented && !i.isPrefix then some [i] else none
  | .long i x => (withLowImmediate (x.extractLsb' 0 5) i).map fun j =>
      [.pfix_k (x.extractLsb' 5 11), j]
  | .nop => some [.mov_rr .r0 .r0]
  | .lsl rs rd => some [.add_rrr rs rs rd]
  | .selUle rs rn rd => some [.sel_crrr .ugt rn rs rd]
  | .selLe rs rn rd => some [.sel_crrr .gt rn rs rd]

end Sys2Proof.Machine
end

