-- ==== Sys2Proof/Safety.lean ====
section
/-! DEFINITION. What counts as a safe run and as a final state (spec/70_reset_and_hazards.md R205;
spec/60_exceptions.md R186), and the well-formedness every state of a run has. -/

namespace Sys2Proof.Machine

/-- The answer is a next state: neither a model fault nor a refusal. -/
def completes (o : Result) : Prop := ∃ t, o = .next t

/-- `n` steps from `s` meet neither a model fault nor a refusal. -/
def SafeFor (n : Nat) (s : State) : Prop := completes (Host.Core.run Sys2Proof.core n s)

/-- The run from `s` ends in `t` after at most `n` steps: `halt` has executed (R205). -/
def EndsIn (n : Nat) (s t : State) : Prop := Host.Core.run Sys2Proof.core n s = .next t ∧ t.run = .halted

/-- Both memories are in canonical form. -/
def State.wf (s : State) : Bool :=
  s.dm.wf && s.pm.wf && s.pm.omits erasedWord

end Sys2Proof.Machine
end

