-- ==== Sys2Proof/Certificates/Slice0/Obligations.lean ====
section
/-! DEFINITION. The statements for the provers, each with the numbered rule of spec/ it comes from.
First the shapes they share: what an instruction of a kind does and everything it leaves alone. The
model's own counter `free` and the value PFX.imm keeps after the latch is cleared are in no
statement. The field `regionLog`, which lists the accesses to regions of `MEM_MAP`, is the model's
(log entry 23). -/

namespace Sys2Proof.Claims

open Sys2Proof.Machine

/-! ## What is left alone -/

/-- Every byte of data memory reads as before, written or not. -/
def MemoryKept (s t : State) : Prop :=
  ∀ a : Word, t.dm.read a.toNat = s.dm.read a.toNat

/-- Every general register but `rd` is unchanged. -/
def RegsKeptBut (s t : State) (rd : Reg) : Prop :=
  ∀ q : Reg, q ≠ rd → t.reg q = s.reg q

/-- Every general register is unchanged. -/
def RegsKept (s t : State) : Prop :=
  ∀ q : Reg, t.reg q = s.reg q

/-- Program memory, the run state and the parameters are unchanged, and no region saw an access. -/
def MachineKept (s t : State) : Prop :=
  t.pm = s.pm ∧ t.run = s.run ∧ t.cfg = s.cfg ∧ t.regionLog = s.regionLog

/-- Program memory, the run state and the parameters are unchanged; the access `x` is added to what
regions have seen exactly when it `touches` one (log entry 23). -/
def MachineKeptBy (x : RegionAccess) (touches : Prop) (s t : State) : Prop :=
  t.pm = s.pm ∧ t.run = s.run ∧ t.cfg = s.cfg ∧
    (touches → t.regionLog = x :: s.regionLog) ∧ (¬touches → t.regionLog = s.regionLog)

/-- PC is at the word after the instruction, and no prefix is pending (R23; that the word after is
at PC + 1 modulo 2^16 is the spec's decisions D2 and D30, log entry 10, that the prefix is used up
D11, log entry 18). -/
def Advanced (s t : State) : Prop :=
  t.pc = s.pc + 1 ∧ t.pfx.valid = false

/-! ## What is done -/

/-- The instruction completes; it writes `v` to `rd` and nothing else. -/
def WritesReg (s : State) (o : Result) (rd : Reg) (v : Word) : Prop :=
  ∃ t, o = .next t ∧ t.reg rd = v ∧ RegsKeptBut s t rd ∧ t.sp = s.sp ∧ t.sr = s.sr ∧
    MemoryKept s t ∧ MachineKept s t ∧ Advanced s t

/-- The instruction completes; it writes the four condition flags of `x` and nothing else. -/
def WritesFlags (s : State) (o : Result) (x : Alu) : Prop :=
  ∃ t, o = .next t ∧ RegsKept s t ∧ t.sp = s.sp ∧
    t.sr = { i := s.sr.i, v := x.v, s := x.s, c := x.c, z := x.z } ∧
    MemoryKept s t ∧ MachineKept s t ∧ Advanced s t

/-- The instruction completes; it writes the result of `x` to `rd`, the four condition flags of `x`,
and nothing else. -/
def WritesRegAndFlags (s : State) (o : Result) (rd : Reg) (x : Alu) : Prop :=
  ∃ t, o = .next t ∧ t.reg rd = x.r ∧ RegsKeptBut s t rd ∧ t.sp = s.sp ∧
    t.sr = { i := s.sr.i, v := x.v, s := x.s, c := x.c, z := x.z } ∧
    MemoryKept s t ∧ MachineKept s t ∧ Advanced s t

/-- The instruction completes; it writes `r` to `rd`, S and Z from `r`, any values to V and C (R14),
and nothing else. -/
def WritesRegLogic (s : State) (o : Result) (rd : Reg) (r : Word) : Prop :=
  ∃ t, o = .next t ∧ t.reg rd = r ∧ RegsKeptBut s t rd ∧ t.sp = s.sp ∧
    t.sr.i = s.sr.i ∧ t.sr.s = r.getLsbD 15 ∧ t.sr.z = decide (r = 0) ∧
    MemoryKept s t ∧ MachineKept s t ∧ Advanced s t

/-- The instruction completes; it writes `r` to `rd`, `c` to C, any values to V, S and Z (R162), and
nothing else. -/
def WritesRegShift (s : State) (o : Result) (rd : Reg) (r : Word) (c : Bool) : Prop :=
  ∃ t, o = .next t ∧ t.reg rd = r ∧ RegsKeptBut s t rd ∧ t.sp = s.sp ∧
    t.sr.i = s.sr.i ∧ t.sr.c = c ∧
    MemoryKept s t ∧ MachineKept s t ∧ Advanced s t

/-- The instruction completes; it writes `v` to SP and nothing else. -/
def WritesSp (s : State) (o : Result) (v : Word) : Prop :=
  ∃ t, o = .next t ∧ t.sp = v ∧ RegsKept s t ∧ t.sr = s.sr ∧
    MemoryKept s t ∧ MachineKept s t ∧ Advanced s t

/-- The instruction completes; control goes to `target` and nothing else changes. -/
def GoesTo (s : State) (o : Result) (target : Word) : Prop :=
  ∃ t, o = .next t ∧ t.pc = target ∧ t.pfx.valid = false ∧ RegsKept s t ∧ t.sp = s.sp ∧
    t.sr = s.sr ∧ MemoryKept s t ∧ MachineKept s t

/-! ## Data memory -/

/-- An even address: the condition of a word access (R42). -/
def IsEven (a : Word) : Prop := a.toNat % 2 = 0

/-- A byte of data memory that exists (R43, R44). -/
def Present (c : Config) (a : Word) : Prop := a.toNat < c.dmBytes

/-- Both bytes of the word at `a` exist. -/
def PresentWord (c : Config) (a : Word) : Prop := Present c a ∧ Present c (a + 1)

/-- A region holds the address. -/
def Holds (g : Region) (a : Word) : Prop := g.base ≤ a.toNat ∧ a.toNat < g.base + g.size

/-- An address in a region of `MEM_MAP` (R43, R48). -/
def InRegion (c : Config) (a : Word) : Prop := ∃ g ∈ c.memMap, Holds g a

/-- A word with a byte in a region. -/
def WordInRegion (c : Config) (a : Word) : Prop := InRegion c a ∨ InRegion c (a + 1)

/-- Plain memory: the byte exists and lies in no region. -/
def Plain (c : Config) (a : Word) : Prop := Present c a ∧ ¬InRegion c a

/-- Both bytes of the word at `a` are plain memory. -/
def PlainWord (c : Config) (a : Word) : Prop := Plain c a ∧ Plain c (a + 1)

/-- The word a load at `a` yields, by the byte order (R41, R43): its bytes come from DM or from the
regions they lie in, as `Obligations.OddWordAccessFaults` says. -/
def wordAt (s : State) (a : Word) : Word :=
  match s.cfg.endian with
  | .little => wordOf (s.dataByte (.readWord a) (a + 1)) (s.dataByte (.readWord a) a)
  | .big => wordOf (s.dataByte (.readWord a) a) (s.dataByte (.readWord a) (a + 1))

/-- The byte a load at `a` yields. -/
def byteAt (s : State) (a : Word) : Byte := s.dataByte (.readByte a) a

/-- In `t` the two bytes at `a` are those of `v` by the byte order of `s`, and every other byte
reads as in `s` (R41, R44). -/
def WordStored (s t : State) (a v : Word) : Prop :=
  t.dm.read a.toNat = some (match s.cfg.endian with | .little => lowByte v | .big => highByte v) ∧
  t.dm.read (a + 1).toNat =
    some (match s.cfg.endian with | .little => highByte v | .big => lowByte v) ∧
  ∀ q : Word, q ≠ a → q ≠ a + 1 → t.dm.read q.toNat = s.dm.read q.toNat

/-- In `t` the byte at `a` is `b`, and every other byte reads as in `s`. -/
def ByteStored (s t : State) (a : Word) (b : Byte) : Prop :=
  t.dm.read a.toNat = some b ∧ ∀ q : Word, q ≠ a → t.dm.read q.toNat = s.dm.read q.toNat

/-- The access is refused for the byte at `a`, which does not exist. -/
def RefusedAt (c : Config) (o : Result) (a : Word) : Prop :=
  ¬Present c a ∧ o = .refused (.dataOutOfRange a)

/-- A word access at `ea` that does what `done` says where its bytes exist; else it stops with the
fault of R42 (under `MISALIGNED` = fault) or the refusal of R43 and R44. -/
def WordAccess (s : State) (o : Result) (ea : Word) (done : Prop) : Prop :=
  (IsEven ea → PresentWord s.cfg ea → done) ∧
  (¬IsEven ea → s.cfg.misaligned = .fault → o = .fault (.misaligned ea)) ∧
  (IsEven ea → ¬PresentWord s.cfg ea → RefusedAt s.cfg o ea ∨ RefusedAt s.cfg o (ea + 1))

/-- A byte access at `ea`, at any address (R42). -/
def ByteAccess (s : State) (o : Result) (ea : Word) (done : Prop) : Prop :=
  (Present s.cfg ea → done) ∧ (¬Present s.cfg ea → RefusedAt s.cfg o ea)

/-- The instruction completes after the access `x`; it writes `v` to `rd` and nothing else. -/
def LoadsReg (x : RegionAccess) (touches : Prop) (s : State) (o : Result) (rd : Reg) (v : Word) :
    Prop :=
  ∃ t, o = .next t ∧ t.reg rd = v ∧ RegsKeptBut s t rd ∧ t.sp = s.sp ∧ t.sr = s.sr ∧
    MemoryKept s t ∧ MachineKeptBy x touches s t ∧ Advanced s t

/-- Load the word at `ea` into `rd` and change nothing else. -/
def LoadsWord (s : State) (o : Result) (ea : Word) (rd : Reg) : Prop :=
  WordAccess s o ea
    (LoadsReg (.readWord ea) (WordInRegion s.cfg ea) s o rd (wordAt s ea))

/-- Load the byte at `ea` into `rd`, zero-extended, and change nothing else. -/
def LoadsByteZext (s : State) (o : Result) (ea : Word) (rd : Reg) : Prop :=
  ByteAccess s o ea
    (LoadsReg (.readByte ea) (InRegion s.cfg ea) s o rd ((byteAt s ea).setWidth 16))

/-- Load the byte at `ea` into `rd`, sign-extended, and change nothing else. -/
def LoadsByteSext (s : State) (o : Result) (ea : Word) (rd : Reg) : Prop :=
  ByteAccess s o ea
    (LoadsReg (.readByte ea) (InRegion s.cfg ea) s o rd ((byteAt s ea).signExtend 16))

/-- Store the word `v` at `ea` and change nothing else. -/
def StoresWord (s : State) (o : Result) (ea v : Word) : Prop :=
  WordAccess s o ea
    (∃ t, o = .next t ∧ WordStored s t ea v ∧ RegsKept s t ∧ t.sp = s.sp ∧ t.sr = s.sr ∧
      MachineKeptBy (.writeWord ea v) (WordInRegion s.cfg ea) s t ∧ Advanced s t)

/-- Store bits 7..0 of `v` at `ea` and change nothing else. -/
def StoresByte (s : State) (o : Result) (ea v : Word) : Prop :=
  ByteAccess s o ea
    (∃ t, o = .next t ∧ ByteStored s t ea (lowByte v) ∧ RegsKept s t ∧ t.sp = s.sp ∧
      t.sr = s.sr ∧ MachineKeptBy (.writeByte ea (lowByte v)) (InRegion s.cfg ea) s t ∧
      Advanced s t)

/-- Decrement SP, store `v` at the new SP, go on at `target`, and change nothing else (R170). -/
def PushesAndGoesTo (s : State) (o : Result) (v target : Word) : Prop :=
  WordAccess s o (s.sp - s.cfg.stackStep)
    (∃ t, o = .next t ∧ t.sp = s.sp - s.cfg.stackStep ∧
      WordStored s t (s.sp - s.cfg.stackStep) v ∧ RegsKept s t ∧ t.sr = s.sr ∧
      MachineKeptBy (.writeWord (s.sp - s.cfg.stackStep) v)
        (WordInRegion s.cfg (s.sp - s.cfg.stackStep)) s t ∧
      t.pc = target ∧ t.pfx.valid = false)

/-! ## Which instruction may change what (spec/10_state.md R22, R23, R26; spec/20_memory.md R40) -/

/-- The instructions R26 lists as writing condition flags. -/
def writesConditionFlags : Instr → Bool
  | .add_kr _ _ | .add_rrr _ _ _ | .adc_rrr _ _ _ | .sub_kr _ _ | .sub_rrr _ _ _
  | .subc_rrr _ _ _ | .neg_rr _ _ | .cmp_rk _ _ | .cmp_rr _ _ | .cmpc_rr _ _ | .and_kr _ _
  | .and_rrr _ _ _ | .or_rrr _ _ _ | .xor_rrr _ _ _ | .not_rr _ _ | .lsr_rr _ _ | .lsrc_rr _ _
  | .asr_rr _ _ => true
  | _ => false

/-- The instructions R22 lists as writing SP. -/
def writesSp : Instr → Bool
  | .mov_rq _ | .add_kq _ | .push_r _ | .pop_r _ | .call _ | .call_r _ | .ret => true
  | _ => false

/-- The instructions R23 lists as assigning PC. -/
def assignsPc : Instr → Bool
  | .br_ck _ _ | .jmp_k _ | .jmp_r _ | .call _ | .call_r _ | .ret | .reti => true
  | _ => false

/-- The instructions R40 lists as storing to data memory, with `call` (D19). -/
def storesToMemory : Instr → Bool
  | .movw_rm _ _ _ | .movb_rm _ _ _ | .movw_rn _ _ _ | .movb_rn _ _ _ | .movw_ra _ _
  | .movb_ra _ _ | .movw_rq _ _ | .movb_rq _ _ | .push_r _ | .call _ | .call_r _ => true
  | _ => false

/-- The general register an instruction writes. -/
def destination : Instr → Option Reg
  | .lea_mr _ _ rd | .movw_mr _ _ rd | .movzb_mr _ _ rd | .movsb_mr _ _ rd => some rd
  | .mov_kr _ rd | .add_kr rd _ | .sub_kr rd _ | .and_kr rd _ | .movw_ar _ rd
  | .movsb_ar _ rd | .lea_qr _ rd | .movw_qr _ rd | .movsb_qr _ rd => some rd
  | .sub_rrr _ _ rd | .subc_rrr _ _ rd | .or_rrr _ _ rd | .and_rrr _ _ rd | .xor_rrr _ _ rd
  | .adc_rrr _ _ rd | .add_rrr _ _ rd | .movw_nr _ _ rd | .movzb_nr _ _ rd | .movsb_nr _ _ rd
  | .sel_crrr _ _ _ rd => some rd
  | .set_cr _ rd | .mov_rr _ rd | .zext_rr _ rd | .sext_rr _ rd | .bswap_rr _ rd
  | .sextw_rr _ rd | .movw_pr _ rd | .lsr_rr _ rd | .lsrc_rr _ rd | .asr_rr _ rd | .neg_rr _ rd
  | .not_rr _ rd | .pop_r rd => some rd
  | _ => none

/-- The immediate field of an instruction's word: its lowest bit and its width (the table of R69).
-/
def immediateField : Instr → Nat × Nat
  | .lea_mr _ _ _ | .movw_mr _ _ _ | .movzb_mr _ _ _ | .movsb_mr _ _ _ | .movw_rm _ _ _
  | .movb_rm _ _ _ => (6, 5)
  | .mov_kr _ _ | .cmp_rk _ _ | .add_kr _ _ | .sub_kr _ _ | .and_kr _ _ | .movw_ar _ _
  | .movsb_ar _ _ | .movw_ra _ _ | .movb_ra _ _ | .lea_qr _ _ | .movw_qr _ _ | .movsb_qr _ _
  | .movw_rq _ _ | .movb_rq _ _ => (3, 8)
  | .br_ck _ _ | .add_kq _ | .jmp_k _ => (0, 9)
  | .call _ => (0, 11)
  | _ => (0, 0)

/-- The word `w` with the immediate field of `i` holding bits 4..0 of `x` and, above them in the
field, zeros; every other bit is that of `w`. -/
def WordWithOperand (i : Instr) (x w w' : Word) : Prop :=
  ∀ n : Nat, n < 16 → w'.getLsbD n =
    if n < (immediateField i).1 then w.getLsbD n
    else if n < (immediateField i).1 + 5 then x.getLsbD (n - (immediateField i).1)
    else if n < (immediateField i).1 + (immediateField i).2 then false
    else w.getLsbD n

/-- A 32-bit number held in two registers, the high half first. -/
def pair (s : State) (hi lo : Reg) : Nat := (s.reg hi).toNat * 65536 + (s.reg lo).toNat

end Sys2Proof.Claims

open Sys2Proof Sys2Proof.Machine Sys2Proof.Claims

/-! ## Encoding -/

/-- Words written out from the patterns of R66, at least one of each format and kind, decode to the
instruction they stand for. That fields 001 to 111 are R1 to R7 in order the spec takes from general
knowledge (its GK2 in R21; log entry 21, PRESUMED); the condition fields are those of R28. -/
def Obligations.DecodesWordsOfEveryFormat : Prop :=
  decode 0xFD5E#16 = .ok (.pfix_k 0x55E#11) ∧ decode 0xF123#16 = .ok (.call 0x123#11) ∧
  decode 0xC7CA#16 = .ok (.lea_mr .r1 31#5 .r2) ∧ decode 0xE09D#16 = .ok (.movw_rm .r5 .r3 2#5) ∧
  decode 0x53FB#16 = .ok (.mov_kr 127#8 .r3) ∧ decode 0xA829#16 = .ok (.movsb_qr 5#8 .r1) ∧
  decode 0x43FE#16 = .ok (.br_ck .ne 0x1FE#9) ∧ decode 0x3DFC#16 = .ok (.add_kq 0x1FC#9) ∧
  decode 0x268B#16 = .ok (.subc_rrr .r1 .r2 .r3) ∧
  decode 0x1C53#16 = .ok (.sel_crrr .ugt .r2 .r1 .r3) ∧ decode 0x0787#16 = .ok (.set_cr .ult .r7) ∧
  decode 0x0E0A#16 = .ok (.movw_pr .r1 .r2) ∧ decode 0x024A#16 = .ok (.lsrc_rr .r1 .r2) ∧
  decode 0x0483#16 = .ok (.push_r .r3) ∧ decode 0x06C0#16 = .ok .eint ∧
  decode 0x0F7F#16 = .ok (.reserved_xxx_10x 7#3 0x7F#7) ∧
  decode 0x0C80#16 = .ok (.mov_sr 0#3 .r0)

/-- Decoding the word of an instruction gives the instruction back, for every instruction and every
operand: no bit of an encoding is dropped. -/
def Obligations.DecodeOfEncodeIsTheInstruction : Prop :=
  ∀ i : Instr, decode (encode i) = .ok i

/-- R66: every word belongs to exactly one row, and decodes to an instruction of that row. -/
def Obligations.EveryWordBelongsToExactlyOneRow : Prop :=
  ∀ w : Word, ∃ i, decode w = .ok i ∧ w &&& i.opcodeRow.mask = i.opcodeRow.pattern ∧
    ∀ j : Instr, w &&& j.opcodeRow.mask = j.opcodeRow.pattern → j.opcodeRow = i.opcodeRow

/-- Encoding what a word decodes to gives the word back on every bit the instruction uses, and 0 on
the others (R66, R74; the 0 is the model's, log entry 22). -/
def Obligations.EncodeOfDecodeKeepsTheUsedBits : Prop :=
  ∀ (w : Word) (i : Instr), decode w = .ok i → encode i = w &&& i.opcodeRow.used

/-- R74 (the spec's decision D21): the bits an implemented instruction does not use are ignored.
Decisions of the spec used: D21 (log entry 22). -/
def Obligations.UnusedBitsAreIgnored : Prop :=
  ∀ (w w' : Word) (i : Instr), decode w = .ok i → i.implemented = true →
    w' &&& i.opcodeRow.used = w &&& i.opcodeRow.used → decode w' = .ok i

/-! ## The step, reset, and rules over all instructions -/

/-- R23, R47: a running machine executes the instruction that the word at PC decodes to; the step
adds nothing (PC and the prefix latch are moved on by the instruction itself). -/
def Obligations.StepRunsTheDecodedInstruction : Prop :=
  ∀ (s : State) (i : Instr), s.run = .running → s.pc.toNat < s.cfg.pmWords →
    decode (s.pmWord s.pc) = .ok i → step s = exec i s

/-- R46, R47 (the spec's decision D2): a fetch at or beyond `PM_WORDS` is refused. Decisions of the
spec used: D2 (log entry 10). -/
def Obligations.FetchBeyondProgramMemoryIsRefused : Prop :=
  ∀ s : State, s.run = .running → s.cfg.pmWords ≤ s.pc.toNat →
    step s = .refused (.programOutOfRange s.pc)

/-- R30, R197: a halted machine executes nothing and keeps all its state (the spec's decision D24).
That a step then answers the same state is the model's choice, log entry 16. -/
def Obligations.HaltedMachineKeepsItsState : Prop :=
  ∀ s : State, s.run = .halted → step s = .next s

/-- R32, R53: no step changes program memory (derived in R32 from the opcode map); and none changes
the parameters, which the model holds in its state (log entry 1). -/
def Obligations.NoStepChangesProgramMemory : Prop :=
  ∀ s t : State, step s = .next t → t.pm = s.pm ∧ t.cfg = s.cfg

/-- Every step keeps both memories in canonical form; the form is the model's (log entries 4 and 5).
-/
def Obligations.StepKeepsMemoriesCanonical : Prop :=
  ∀ s t : State, s.wf = true → step s = .next t → t.wf = true

/-- Both memories are in canonical form after reset, for every launch; the form is the model's (log
entries 4 and 5). -/
def Obligations.ResetMemoriesAreCanonical : Prop :=
  (∀ l : Launch, (State.resetWith l).wf = true) ∧ State.reset.wf = true

/-- R200 (the spec's decision D25), for every launch, so for every value of the state R200 leaves
unspecified: what reset sets. Program memory holds `PROGRAM`; no byte of data memory has been
written; the general registers, SP, the condition flags and PFX.imm are whatever the launch says.
Decisions of the spec used: D25 (log entry 3). -/
def Obligations.ResetSetsWhatTheSpecSets : Prop :=
  (∀ l : Launch,
    (State.resetWith l).pc = l.cfg.resetPc ∧ (State.resetWith l).sr.i = false ∧
    (State.resetWith l).pfx.valid = false ∧ (State.resetWith l).run = .running ∧
    (∀ a : Word, (State.resetWith l).dm.read a.toNat = none) ∧
    (∀ (a : Word) (w : Word), l.program[a.toNat]? = some w →
      (State.resetWith l).pmWord a = w)) ∧
  (∀ (r : Vector Word 8) (sp : Word) (v f c z : Bool) (k : BitVec 11), ∃ l : Launch,
    l.cfg = {} ∧ (State.resetWith l).regs = r ∧ (State.resetWith l).sp = sp ∧
    (State.resetWith l).sr = { i := false, v := v, s := f, c := c, z := z } ∧
    (State.resetWith l).pfx.imm = k) ∧
  State.reset.pc = 0

/-- R23, R29 (the spec's decision D11): after a step of a running machine a prefix is pending
exactly when the word executed was `pfix_k`, and then it is that word's immediate. Decisions of the
spec used: D11 (log entry 18). -/
def Obligations.PrefixReachesExactlyTheNextInstruction : Prop :=
  ∀ s t : State, s.run = .running → step s = .next t →
    (t.pfx.valid = true ↔ ∃ k, decode (s.pmWord s.pc) = .ok (.pfix_k k)) ∧
    ∀ k, decode (s.pmWord s.pc) = .ok (.pfix_k k) → t.pfx.imm = k

/-- R26 (the spec's decision D15): only `dint` and `eint` change I. Decisions of the spec used: D15
(log entry 25). -/
def Obligations.OnlyDintAndEintChangeTheInterruptFlag : Prop :=
  ∀ (i : Instr) (s t : State), exec i s = .next t → i ≠ .dint → i ≠ .eint → t.sr.i = s.sr.i

/-- R26 (the spec's decision D15): only the instructions it lists change V, S, C or Z. Decisions of
the spec used: D15 (log entry 25). -/
def Obligations.OnlyListedInstructionsChangeTheConditionFlags : Prop :=
  ∀ (i : Instr) (s t : State), exec i s = .next t → writesConditionFlags i = false →
    t.sr.v = s.sr.v ∧ t.sr.s = s.sr.s ∧ t.sr.c = s.sr.c ∧ t.sr.z = s.sr.z

/-- R22 (for `call` and `ret` the spec's decision D19): only the instructions it lists change SP.
Decisions of the spec used: D19 (log entry 14). -/
def Obligations.OnlyListedInstructionsChangeTheStackPointer : Prop :=
  ∀ (i : Instr) (s t : State), exec i s = .next t → writesSp i = false → t.sp = s.sp

/-- R23, R24: every instruction but those R23 lists as assigning PC advances PC by one word, and
`br%cc` does so when its condition fails. That the next word is PC + 1 is the spec's decision D2,
that PC wraps modulo 2^16 D30 (log entry 10). -/
def Obligations.OnlyListedInstructionsAssignTheProgramCounter : Prop :=
  ∀ (i : Instr) (s t : State), exec i s = .next t →
    (assignsPc i = false → t.pc = s.pc + 1) ∧
    (∀ cc a, i = .br_ck cc a → condHolds cc s.sr = false → t.pc = s.pc + 1)

/-- R40: only the instructions it lists as storing change data memory, and `call`, which stores by
the spec's decision D19 (log entry 14). -/
def Obligations.OnlyStoresChangeDataMemory : Prop :=
  ∀ (i : Instr) (s t : State), exec i s = .next t → storesToMemory i = false → MemoryKept s t

/-- No instruction changes a general register other than its destination (R21, R76). -/
def Obligations.OnlyTheDestinationRegisterChanges : Prop :=
  ∀ (i : Instr) (s t : State), exec i s = .next t →
    ∀ q : Reg, destination i ≠ some q → t.reg q = s.reg q

/-- R70 and the order of R189 (the spec's decisions D11 and D20): while a prefix is pending, a
second prefix and every word without an immediate field (the reserved ones too) are refused before
anything else, with the two words; an instruction with an immediate field is never refused for it.
Decisions of the spec used: D20 (log entry 17), D11 (log entry 18). -/
def Obligations.PrefixMisuseIsRefusedFirst : Prop :=
  ∀ (i : Instr) (s : State),
    (s.pfx.valid = true → i.prefixable = false →
      exec i s = .refused (.prefixMisuse (0xF800#16 ||| s.pfx.imm.setWidth 16) (s.pmWord s.pc))) ∧
    (i.prefixable = true → ∀ p w, exec i s ≠ .refused (.prefixMisuse p w))

/-! ## Primitives -/

/-- R12: the addition primitive; and V says exactly that the signed sum does not fit 16 bits. What S
and V mean the spec takes from general knowledge (its GK1; log entry 20). -/
def Obligations.AdditionResultAndFlags : Prop :=
  ∀ (a b : Word) (cin : Bool),
    (aluAdd a b cin).r.toNat = (a.toNat + b.toNat + cin.toNat) % 65536 ∧
    ((aluAdd a b cin).c = true ↔ 65536 ≤ a.toNat + b.toNat + cin.toNat) ∧
    ((aluAdd a b cin).v = true ↔
      a.getLsbD 15 = b.getLsbD 15 ∧ (aluAdd a b cin).r.getLsbD 15 ≠ a.getLsbD 15) ∧
    (aluAdd a b cin).s = (aluAdd a b cin).r.getLsbD 15 ∧
    ((aluAdd a b cin).z = true ↔ (aluAdd a b cin).r = 0) ∧
    ((aluAdd a b cin).v = true ↔
      a.toInt + b.toInt + cin.toNat < -32768 ∨ 32767 < a.toInt + b.toInt + cin.toNat)

/-- R13: the subtraction primitive, and the adder it is equivalent to; after it, with no borrow in,
S = V says exactly that a is at least b as signed numbers. S and V: the spec's GK1, log entry 20;
the sense of C is derived in R13. -/
def Obligations.SubtractionResultAndFlags : Prop :=
  ∀ (a b : Word) (bin : Bool),
    ((aluSub a b bin).r.toNat : Int) = ((a.toNat : Int) - b.toNat - bin.toNat) % 65536 ∧
    ((aluSub a b bin).c = true ↔ b.toNat + bin.toNat ≤ a.toNat) ∧
    ((aluSub a b bin).v = true ↔
      a.getLsbD 15 ≠ b.getLsbD 15 ∧ (aluSub a b bin).r.getLsbD 15 ≠ a.getLsbD 15) ∧
    (aluSub a b bin).s = (aluSub a b bin).r.getLsbD 15 ∧
    ((aluSub a b bin).z = true ↔ (aluSub a b bin).r = 0) ∧
    (aluSub a b bin).r = (aluAdd a (~~~b) (!bin)).r ∧
    (aluSub a b bin).c = (aluAdd a (~~~b) (!bin)).c ∧
    (bin = false → ((aluSub a b bin).s = (aluSub a b bin).v ↔ b.toInt ≤ a.toInt))

/-- R28: what the condition of each 3-bit field says of the flags, and the two assembler-only
conditions (`ule`, `le`) as the opposites of `ugt` and `gt`. -/
def Obligations.ConditionsReadTheFlags : Prop :=
  ∀ f : Status,
    (condHolds (Cond.ofBits 0b000#3) f = true ↔ f.z = true) ∧
    (condHolds (Cond.ofBits 0b001#3) f = true ↔ f.z = false) ∧
    (condHolds (Cond.ofBits 0b010#3) f = true ↔ f.c = true) ∧
    (condHolds (Cond.ofBits 0b011#3) f = true ↔ f.c = false) ∧
    (condHolds (Cond.ofBits 0b100#3) f = true ↔ f.s = f.v) ∧
    (condHolds (Cond.ofBits 0b101#3) f = true ↔ f.s ≠ f.v) ∧
    (condHolds (Cond.ofBits 0b110#3) f = true ↔ f.c = true ∧ f.z = false) ∧
    (condHolds (Cond.ofBits 0b111#3) f = true ↔ f.s = f.v ∧ f.z = false) ∧
    (condHolds .ugt f = false ↔ f.c = false ∨ f.z = true) ∧
    (condHolds .gt f = false ↔ f.s ≠ f.v ∨ f.z = true)

/-- R28 with R13 and R133: after `cmp Rs, Rn` each condition answers its relation between Rs and Rn,
unsigned or signed: what R28 calls the meaning of the relations (derived there). Decisions of the
spec used: D12 (log entry 20). -/
def Obligations.CompareAnswersEveryRelation : Prop :=
  ∀ (s t : State) (rs rn : Reg), exec (.cmp_rr rs rn) s = .next t →
    (condHolds .eq t.sr = true ↔ s.reg rs = s.reg rn) ∧
    (condHolds .ne t.sr = true ↔ s.reg rs ≠ s.reg rn) ∧
    (condHolds .uge t.sr = true ↔ (s.reg rn).toNat ≤ (s.reg rs).toNat) ∧
    (condHolds .ult t.sr = true ↔ (s.reg rs).toNat < (s.reg rn).toNat) ∧
    (condHolds .ge t.sr = true ↔ (s.reg rn).toInt ≤ (s.reg rs).toInt) ∧
    (condHolds .lt t.sr = true ↔ (s.reg rs).toInt < (s.reg rn).toInt) ∧
    (condHolds .ugt t.sr = true ↔ (s.reg rn).toNat < (s.reg rs).toNat) ∧
    (condHolds .gt t.sr = true ↔ (s.reg rn).toInt < (s.reg rs).toInt)

/-- R11: with a prefix pending the immediate is the prefix above the field's low five bits, whatever
the extension; without one the field is zero- or sign-extended. -/
def Obligations.EffectiveImmediateByPrefixOrExtension : Prop :=
  ∀ (s : State) (n : Nat) (field : BitVec n) (ext : Ext), 5 ≤ n → n ≤ 16 →
    (s.pfx.valid = true →
      (s.effImm field ext).toNat = s.pfx.imm.toNat * 32 + field.toNat % 32) ∧
    (s.pfx.valid = false → ext = .zext → (s.effImm field ext).toNat = field.toNat) ∧
    (s.pfx.valid = false → ext = .sext → (s.effImm field ext).toInt = field.toInt)

/-- R80, R68: a prefix and the instruction after it give any 16-bit operand X: the prefix carries
bits 15..5, the field bits 4..0; `mov #X, Rd` is shown in full. Decisions of the spec used: D2 and
D30 (log entry 10), D11 (log entry 18), D15 (log entry 25). -/
def Obligations.PrefixedMoveLoadsAnyWord : Prop :=
  ∀ (s : State) (x : Word) (field : BitVec 8) (rd : Reg),
    s.pfx.valid = false → field.extractLsb' 0 5 = x.extractLsb' 0 5 →
    ∃ t u, exec (.pfix_k (x.extractLsb' 5 11)) s = .next t ∧
      exec (.mov_kr field rd) t = .next u ∧ u.reg rd = x ∧ RegsKeptBut s u rd ∧
      u.pfx.valid = false ∧ u.pc = s.pc + 2 ∧ u.sr = s.sr ∧ u.sp = s.sp ∧ MemoryKept s u

/-- R41, R43, R44: in plain memory a word stored at an even address reads back as it was, its bytes
lie as the byte order says, and reading changes nothing; two bytes stored read back as the word they
make. The byte order is the spec's decision D4, the addresses that exist D3. Decisions of the spec
used: D4 (log entry 8), D3 (log entry 24). -/
def Obligations.StoredWordsAndBytesReadBack : Prop :=
  ∀ (s : State) (a v : Word), IsEven a → PlainWord s.cfg a →
    ∃ t, s.writeWord a v = .ok t ∧ WordStored s t a v ∧ t.readWord a = .ok (v, t) ∧
      t.readByte a =
        .ok ((match s.cfg.endian with | .little => lowByte v | .big => highByte v), t) ∧
      t.readByte (a + 1) =
        .ok ((match s.cfg.endian with | .little => highByte v | .big => lowByte v), t) ∧
      ∀ x y : Word, ∃ u u', s.writeByte a x = .ok u ∧ u.writeByte (a + 1) y = .ok u' ∧
        u'.readWord a =
          .ok ((match s.cfg.endian with
            | .little => wordOf (lowByte y) (lowByte x)
            | .big => wordOf (lowByte x) (lowByte y)), u')

/-- R42, R43, R44: a word access at an odd address is the fault `Misaligned` with the address, for
reads and writes, when `MISALIGNED` is `fault` (the spec's decision D5); a byte access never is. The
byte read is that of DM, or in a region of `MEM_MAP` what the region's own definition answers; that
the answer is a free function of the accesses so far, and that the first region listed wins, is the
model's choice, log entry 23. Decisions of the spec used: D5 (log entry 9). -/
def Obligations.OddWordAccessFaults : Prop :=
  ∀ (s : State) (a v : Word),
    (¬IsEven a → s.cfg.misaligned = .fault →
      s.readWord a = .error (.fault (.misaligned a)) ∧
      s.writeWord a v = .error (.fault (.misaligned a))) ∧
    (Present s.cfg a →
      (∃ t, s.readByte a = .ok (byteAt s a, t) ∧ MemoryKept s t ∧
        MachineKeptBy (.readByte a) (InRegion s.cfg a) s t) ∧
      ∃ t, s.writeByte a v = .ok t ∧ ByteStored s t a (lowByte v) ∧
        MachineKeptBy (.writeByte a (lowByte v)) (InRegion s.cfg a) s t) ∧
    (¬InRegion s.cfg a → ∀ x : RegionAccess, s.dataByte x a = s.dmByte a) ∧
    ∀ (before after : List Region) (g : Region), s.cfg.memMap = before ++ g :: after →
      (∀ h ∈ before, ¬Holds h a) → Holds g a →
      ∀ x : RegionAccess, s.dataByte x a = Config.regionByte g (x :: s.regionLog) a

/-! ## Format P -/

/-- R90: `pfix_k` sets the latch and advances PC. Decisions of the spec used: D2 and D30 (log entry
10), D11 (log entry 18), D15 (log entry 25). -/
def Obligations.PrefixInstructionLoadsTheLatch : Prop :=
  ∀ (s : State) (k : BitVec 11),
    decode (formatP 0b11111#5 k) = .ok (.pfix_k k) ∧
    (s.pfx.valid = false →
      ∃ t, exec (.pfix_k k) s = .next t ∧ t.pfx = { valid := true, imm := k } ∧
        t.pc = s.pc + 1 ∧ RegsKept s t ∧ t.sp = s.sp ∧ t.sr = s.sr ∧ MemoryKept s t ∧
        MachineKept s t)

/-- R91, R169, with R42 and R44: `call Label` and `call Rd` push the address of the next word as
`push` would, and go to the target. The stack as the place is the spec's decision D19 (log entry
14), the extension of the label D9 (log entry 12), the fault at an odd address D5 (log entry 9), the
refusal beyond `DM_BYTES` D3 (log entry 24); what a region of `MEM_MAP` sees is log entry 23.
Decisions of the spec used: D2 and D30 (log entry 10), D11 (log entry 18), D21 (log entry 22), D15
(log entry 25). -/
def Obligations.CallsPushTheReturnAddress : Prop :=
  ∀ (s : State) (a : BitVec 11) (rd : Reg) (x : BitVec 3),
    decode (formatP 0b11110#5 a) = .ok (.call a) ∧
    PushesAndGoesTo s (exec (.call a) s) (s.pc + 1) (s.effImm a s.cfg.callExt) ∧
    decode (formatR2 0b0000001010#10 x rd.bits) = .ok (.call_r rd) ∧
    (s.pfx.valid = false →
      PushesAndGoesTo s (exec (.call_r rd) s) (s.pc + 1) (s.reg rd))

/-! ## Register results without flags -/

/-- R96, R106, R115, with R23 and R26: `lea Rs, K, Rd`, `mov K, Rd`, `lea SP, K, Rd`. That no flag
is written is the spec's decision D15 (log entry 25), that the next word is PC + 1 modulo 2^16 D2
and D30 (log entry 10), that the prefix is used up D11 (log entry 18). Decisions of the spec used:
D34 (log entry 27). -/
def Obligations.LeaAndMoveImmediate : Prop :=
  ∀ (s : State) (rs rd : Reg) (k5 : BitVec 5) (k8 : BitVec 8),
    decode (formatI1 0b11000#5 k5 rs.bits rd.bits) = .ok (.lea_mr rs k5 rd) ∧
    WritesReg s (exec (.lea_mr rs k5 rd) s) rd (s.reg rs + s.effImm k5 .zext) ∧
    decode (formatI2 0b01010#5 k8 rd.bits) = .ok (.mov_kr k8 rd) ∧
    WritesReg s (exec (.mov_kr k8 rd) s) rd (s.effImm k8 .sext) ∧
    decode (formatI2 0b10011#5 k8 rd.bits) = .ok (.lea_qr k8 rd) ∧
    WritesReg s (exec (.lea_qr k8 rd) s) rd (s.sp + s.effImm k8 .zext)

/-- R154, R156, R157, R158, R159, with R23, R26 and R152: the two-register moves, by the bits of the
result. That no flag is written is the spec's decision D15 (log entry 25), that the next word is PC
+ 1 modulo 2^16 D2 and D30 (log entry 10), that no prefix is pending after it D11 (log entry 18).
Decisions of the spec used: D34 (log entry 27). -/
def Obligations.TwoRegisterMoves : Prop :=
  ∀ (s : State) (rs rd : Reg), s.pfx.valid = false →
    decode (formatR2 0b0000000000#10 rs.bits rd.bits) = .ok (.mov_rr rs rd) ∧
    WritesReg s (exec (.mov_rr rs rd) s) rd (s.reg rs) ∧
    decode (formatR2 0b0000010000#10 rs.bits rd.bits) = .ok (.zext_rr rs rd) ∧
    WritesReg s (exec (.zext_rr rs rd) s) rd (s.reg rs &&& 0x00FF#16) ∧
    decode (formatR2 0b0000011000#10 rs.bits rd.bits) = .ok (.sext_rr rs rd) ∧
    WritesReg s (exec (.sext_rr rs rd) s) rd
      (if (s.reg rs).getLsbD 7 then s.reg rs ||| 0xFF00#16 else s.reg rs &&& 0x00FF#16) ∧
    decode (formatR2 0b0000100000#10 rs.bits rd.bits) = .ok (.bswap_rr rs rd) ∧
    WritesReg s (exec (.bswap_rr rs rd) s) rd (s.reg rs <<< 8 ||| s.reg rs >>> 8) ∧
    decode (formatR2 0b0000101000#10 rs.bits rd.bits) = .ok (.sextw_rr rs rd) ∧
    WritesReg s (exec (.sextw_rr rs rd) s) rd (if (s.reg rs).toInt < 0 then 0xFFFF#16 else 0)

/-- R147, R153: conditional select and conditional set. A pending prefix is refused, with the two
words (R70, R152, R186; the spec's decision D11; log entry 18). That the unused bits of `set%cc` are
ignored is D21 (log entry 22), that no flag is written D15 (log entry 25). Decisions of the spec
used: D2 and D30 (log entry 10), D34 (log entry 27). -/
def Obligations.SelectAndSetByCondition : Prop :=
  ∀ (s : State) (cc : Cond) (rs rn rd : Reg) (x : BitVec 4),
    decode (formatSelect cc.bits rn.bits rs.bits rd.bits) = .ok (.sel_crrr cc rs rn rd) ∧
    decode (formatSet cc.bits x rd.bits) = .ok (.set_cr cc rd) ∧
    (s.pfx.valid = false →
      WritesReg s (exec (.sel_crrr cc rs rn rd) s) rd
        (if condHolds cc s.sr then s.reg rs else s.reg rn) ∧
      WritesReg s (exec (.set_cr cc rd) s) rd
        (if condHolds cc s.sr then 0x0001#16 else 0x0000#16)) ∧
    (s.pfx.valid = true →
      exec (.sel_crrr cc rs rn rd) s =
        .refused (.prefixMisuse (0xF800#16 ||| s.pfx.imm.setWidth 16) (s.pmWord s.pc)) ∧
      exec (.set_cr cc rd) s =
        .refused (.prefixMisuse (0xF800#16 ||| s.pfx.imm.setWidth 16) (s.pmWord s.pc)))

/-- R161: `ld.w` from program memory, at the word address in Rs (the unit is the spec's decision
D29). Decisions of the spec used: D29 and D2 and D30 (log entry 10), D11 (log entry 18), D15 (log
entry 25), D34 (log entry 27). -/
def Obligations.LoadFromProgramMemory : Prop :=
  ∀ (s : State) (rs rd : Reg), s.pfx.valid = false →
    decode (formatR2 0b0000111000#10 rs.bits rd.bits) = .ok (.movw_pr rs rd) ∧
    ((s.reg rs).toNat < s.cfg.pmWords →
      WritesReg s (exec (.movw_pr rs rd) s) rd (s.pmWord (s.reg rs))) ∧
    (s.cfg.pmWords ≤ (s.reg rs).toNat →
      exec (.movw_pr rs rd) s = .refused (.programOutOfRange (s.reg rs)))

/-- R127, R155: `add SP, K, SP` and `mov Rs, SP`; no flag changes (the spec's decision D15).
Decisions of the spec used: D2 and D30 (log entry 10), D11 (log entry 18), D21 (log entry 22), D15
(log entry 25), D6 (log entry 30). -/
def Obligations.StackPointerMoves : Prop :=
  ∀ (s : State) (k : BitVec 9) (rs : Reg) (x : BitVec 3),
    decode (formatJ 0b0011110#7 k) = .ok (.add_kq k) ∧
    WritesSp s (exec (.add_kq k) s) (s.sp + s.effImm k .sext) ∧
    decode (formatR2 0b0000001000#10 rs.bits x) = .ok (.mov_rq rs) ∧
    (s.pfx.valid = false → WritesSp s (exec (.mov_rq rs) s) (s.reg rs))

/-! ## Arithmetic and logic -/

/-- R107, R108, R109: compare, add and subtract with an immediate; `cmp` sign-extends, the others
zero-extend. The flags are those of `aluAdd` and `aluSub` (the spec's GK1 and decision D12).
Decisions of the spec used: D2 and D30 (log entry 10), D11 (log entry 18), D12 (log entry 20), D34
(log entry 27). -/
def Obligations.ImmediateArithmetic : Prop :=
  ∀ (s : State) (rd : Reg) (k : BitVec 8),
    decode (formatI2 0b01011#5 k rd.bits) = .ok (.cmp_rk rd k) ∧
    WritesFlags s (exec (.cmp_rk rd k) s) (aluSub (s.reg rd) (s.effImm k .sext) false) ∧
    decode (formatI2 0b01100#5 k rd.bits) = .ok (.add_kr rd k) ∧
    WritesRegAndFlags s (exec (.add_kr rd k) s) rd
      (aluAdd (s.reg rd) (s.effImm k .zext) false) ∧
    decode (formatI2 0b01101#5 k rd.bits) = .ok (.sub_kr rd k) ∧
    WritesRegAndFlags s (exec (.sub_kr rd k) s) rd
      (aluSub (s.reg rd) (s.effImm k .zext) false)

/-- R133, R135, R140, R141, R166: `cmp`, `sub`, `addc`, `add` of registers, and `neg`. The flags are
those of `aluAdd` and `aluSub` (the spec's GK1 and decision D12). Decisions of the spec used: D2 and
D30 (log entry 10), D11 (log entry 18), D12 (log entry 20), D21 (log entry 22), D17 (log entry 26),
D34 (log entry 27). -/
def Obligations.RegisterArithmetic : Prop :=
  ∀ (s : State) (rs rn rd : Reg) (x : BitVec 3), s.pfx.valid = false →
    decode (formatR1 0b0010000#7 rn.bits rs.bits x) = .ok (.cmp_rr rs rn) ∧
    WritesFlags s (exec (.cmp_rr rs rn) s) (aluSub (s.reg rs) (s.reg rn) false) ∧
    decode (formatR1 0b0010010#7 rn.bits rs.bits rd.bits) = .ok (.sub_rrr rs rn rd) ∧
    WritesRegAndFlags s (exec (.sub_rrr rs rn rd) s) rd (aluSub (s.reg rs) (s.reg rn) false) ∧
    decode (formatR1 0b0010111#7 rn.bits rs.bits rd.bits) = .ok (.adc_rrr rs rn rd) ∧
    WritesRegAndFlags s (exec (.adc_rrr rs rn rd) s) rd
      (aluAdd (s.reg rs) (s.reg rn) s.sr.c) ∧
    decode (formatR1 0b0011000#7 rn.bits rs.bits rd.bits) = .ok (.add_rrr rs rn rd) ∧
    WritesRegAndFlags s (exec (.add_rrr rs rn rd) s) rd (aluAdd (s.reg rs) (s.reg rn) false) ∧
    decode (formatR2 0b0000101001#10 rs.bits rd.bits) = .ok (.neg_rr rs rd) ∧
    WritesRegAndFlags s (exec (.neg_rr rs rd) s) rd (aluSub 0 (s.reg rs) false)

/-- R134, R136: `cmpc` and `subc` take the old C as the borrow under `SUBC_BORROW` = literal, its
complement under chained (the spec's decision D16; log entry 13). Decisions of the spec used: D2 and
D30 (log entry 10), D11 (log entry 18), D12 (log entry 20), D21 (log entry 22), D17 (log entry 26),
D34 (log entry 27). -/
def Obligations.SubtractWithCarryUnderBothBorrowSenses : Prop :=
  ∀ (s : State) (rs rn rd : Reg) (x : BitVec 3) (bin : Bool), s.pfx.valid = false →
    (s.cfg.subcBorrow = .literal ∧ bin = s.sr.c ∨
      s.cfg.subcBorrow = .chained ∧ bin = !s.sr.c) →
    decode (formatR1 0b0010001#7 rn.bits rs.bits x) = .ok (.cmpc_rr rs rn) ∧
    WritesFlags s (exec (.cmpc_rr rs rn) s) (aluSub (s.reg rs) (s.reg rn) bin) ∧
    decode (formatR1 0b0010011#7 rn.bits rs.bits rd.bits) = .ok (.subc_rrr rs rn rd) ∧
    WritesRegAndFlags s (exec (.subc_rrr rs rn rd) s) rd (aluSub (s.reg rs) (s.reg rn) bin)

/-- R110, R137, R138, R139, R167, with the flags of R14: the five logic instructions. S and Z from
the result is the spec's decision D13; V and C may be anything. Decisions of the spec used: D13 (log
entry 7), D2 and D30 (log entry 10), D11 (log entry 18), D34 (log entry 27). -/
def Obligations.LogicInstructions : Prop :=
  ∀ (s : State) (rs rn rd : Reg) (k : BitVec 8),
    decode (formatI2 0b01110#5 k rd.bits) = .ok (.and_kr rd k) ∧
    WritesRegLogic s (exec (.and_kr rd k) s) rd (s.reg rd &&& s.effImm k .zext) ∧
    decode (formatR1 0b0010100#7 rn.bits rs.bits rd.bits) = .ok (.or_rrr rs rn rd) ∧
    decode (formatR1 0b0010101#7 rn.bits rs.bits rd.bits) = .ok (.and_rrr rs rn rd) ∧
    decode (formatR1 0b0010110#7 rn.bits rs.bits rd.bits) = .ok (.xor_rrr rs rn rd) ∧
    decode (formatR2 0b0000110001#10 rs.bits rd.bits) = .ok (.not_rr rs rd) ∧
    (s.pfx.valid = false →
      WritesRegLogic s (exec (.or_rrr rs rn rd) s) rd (s.reg rs ||| s.reg rn) ∧
      WritesRegLogic s (exec (.and_rrr rs rn rd) s) rd (s.reg rs &&& s.reg rn) ∧
      WritesRegLogic s (exec (.xor_rrr rs rn rd) s) rd (s.reg rs ^^^ s.reg rn) ∧
      WritesRegLogic s (exec (.not_rr rs rd) s) rd (~~~(s.reg rs)))

/-- R162, R163, R164, R165, with R23, R26 and R152: the three right shifts, by the arithmetic of the
result: half the operand, plus 2^15 times the bit that enters. V, S and Z may be anything (the
spec's decision D14; log entry 7); that I is unchanged is D15 (log entry 25), that the next word is
PC + 1 modulo 2^16 D2 and D30 (log entry 10), that no prefix is pending after it D11 (log entry 18).
Decisions of the spec used: D34 (log entry 27). -/
def Obligations.ShiftsByOne : Prop :=
  ∀ (s : State) (rs rd : Reg), s.pfx.valid = false →
    decode (formatR2 0b0000000001#10 rs.bits rd.bits) = .ok (.lsr_rr rs rd) ∧
    WritesRegShift s (exec (.lsr_rr rs rd) s) rd
      (BitVec.ofNat 16 ((s.reg rs).toNat / 2)) ((s.reg rs).getLsbD 0) ∧
    decode (formatR2 0b0000001001#10 rs.bits rd.bits) = .ok (.lsrc_rr rs rd) ∧
    WritesRegShift s (exec (.lsrc_rr rs rd) s) rd
      (BitVec.ofNat 16 ((s.reg rs).toNat / 2 + s.sr.c.toNat * 32768)) ((s.reg rs).getLsbD 0) ∧
    decode (formatR2 0b0000010001#10 rs.bits rd.bits) = .ok (.asr_rr rs rd) ∧
    WritesRegShift s (exec (.asr_rr rs rd) s) rd
      (BitVec.ofInt 16 ((s.reg rs).toInt / 2)) ((s.reg rs).getLsbD 0)

/-! ## Loads and stores -/

/-- R97, R98, R99, with R42 and R43: the loads with register + immediate. The fault at an odd
address is the spec's decision D5 (log entry 9), the refusal beyond `DM_BYTES` D3 (log entry 24);
what a region of `MEM_MAP` answers and sees is log entry 23. Decisions of the spec used: D2 and D30
(log entry 10), D11 (log entry 18), D15 (log entry 25), D34 (log entry 27), D3 and D6 (log entry
30). -/
def Obligations.LoadsWithImmediateOffset : Prop :=
  ∀ (s : State) (rs rd : Reg) (k : BitVec 5),
    decode (formatI1 0b11001#5 k rs.bits rd.bits) = .ok (.movw_mr rs k rd) ∧
    LoadsWord s (exec (.movw_mr rs k rd) s) (s.reg rs + s.effImm k .zext) rd ∧
    decode (formatI1 0b11010#5 k rs.bits rd.bits) = .ok (.movzb_mr rs k rd) ∧
    LoadsByteZext s (exec (.movzb_mr rs k rd) s) (s.reg rs + s.effImm k .zext) rd ∧
    decode (formatI1 0b11011#5 k rs.bits rd.bits) = .ok (.movsb_mr rs k rd) ∧
    LoadsByteSext s (exec (.movsb_mr rs k rd) s) (s.reg rs + s.effImm k .zext) rd

/-- R100, R101, with R42 and R44: the stores with register + immediate. The fault at an odd address
is the spec's decision D5 (log entry 9), the refusal beyond `DM_BYTES` D3 (log entry 24); what a
region of `MEM_MAP` sees is log entry 23. Decisions of the spec used: D2 and D30 (log entry 10), D11
(log entry 18), D15 (log entry 25), D3 and D6 (log entry 30). -/
def Obligations.StoresWithImmediateOffset : Prop :=
  ∀ (s : State) (rs rd : Reg) (k : BitVec 5),
    decode (formatI1 0b11100#5 k rs.bits rd.bits) = .ok (.movw_rm rd rs k) ∧
    StoresWord s (exec (.movw_rm rd rs k) s) (s.reg rs + s.effImm k .zext) (s.reg rd) ∧
    decode (formatI1 0b11101#5 k rs.bits rd.bits) = .ok (.movb_rm rd rs k) ∧
    StoresByte s (exec (.movb_rm rd rs k) s) (s.reg rs + s.effImm k .zext) (s.reg rd)

/-- R111, R112, R116, R117, with R42 and R43: the loads from an absolute address and from SP + K;
the extension of the unprefixed field is `ABS_EXT` and `SPK_EXT` (the spec's decisions D7 and D8;
log entry 12). The fault at an odd address is the spec's decision D5 (log entry 9), the refusal
beyond `DM_BYTES` D3 (log entry 24); what a region of `MEM_MAP` answers and sees is log entry 23.
Decisions of the spec used: D2 and D30 (log entry 10), D11 (log entry 18), D15 (log entry 25), D3
and D6 (log entry 30). -/
def Obligations.LoadsAbsoluteAndFromTheStack : Prop :=
  ∀ (s : State) (rd : Reg) (k : BitVec 8),
    decode (formatI2 0b01111#5 k rd.bits) = .ok (.movw_ar k rd) ∧
    LoadsWord s (exec (.movw_ar k rd) s) (s.effImm k s.cfg.absExt) rd ∧
    decode (formatI2 0b10000#5 k rd.bits) = .ok (.movsb_ar k rd) ∧
    LoadsByteSext s (exec (.movsb_ar k rd) s) (s.effImm k s.cfg.absExt) rd ∧
    decode (formatI2 0b10100#5 k rd.bits) = .ok (.movw_qr k rd) ∧
    LoadsWord s (exec (.movw_qr k rd) s) (s.sp + s.effImm k s.cfg.spkExt) rd ∧
    decode (formatI2 0b10101#5 k rd.bits) = .ok (.movsb_qr k rd) ∧
    LoadsByteSext s (exec (.movsb_qr k rd) s) (s.sp + s.effImm k s.cfg.spkExt) rd

/-- R113, R114, R118, R119, with R42 and R44: the stores to an absolute address and to SP + K (the
extension as for the loads, the spec's decisions D7 and D8; log entry 12). The fault at an odd
address is the spec's decision D5 (log entry 9), the refusal beyond `DM_BYTES` D3 (log entry 24);
what a region of `MEM_MAP` sees is log entry 23. Decisions of the spec used: D2 and D30 (log entry
10), D11 (log entry 18), D15 (log entry 25), D3 and D6 (log entry 30). -/
def Obligations.StoresAbsoluteAndToTheStack : Prop :=
  ∀ (s : State) (rd : Reg) (k : BitVec 8),
    decode (formatI2 0b10001#5 k rd.bits) = .ok (.movw_ra rd k) ∧
    StoresWord s (exec (.movw_ra rd k) s) (s.effImm k s.cfg.absExt) (s.reg rd) ∧
    decode (formatI2 0b10010#5 k rd.bits) = .ok (.movb_ra rd k) ∧
    StoresByte s (exec (.movb_ra rd k) s) (s.effImm k s.cfg.absExt) (s.reg rd) ∧
    decode (formatI2 0b10110#5 k rd.bits) = .ok (.movw_rq rd k) ∧
    StoresWord s (exec (.movw_rq rd k) s) (s.sp + s.effImm k s.cfg.spkExt) (s.reg rd) ∧
    decode (formatI2 0b10111#5 k rd.bits) = .ok (.movb_rq rd k) ∧
    StoresByte s (exec (.movb_rq rd k) s) (s.sp + s.effImm k s.cfg.spkExt) (s.reg rd)

/-- R142, R143, R144, with R42 and R43: the loads with register + register. The fault at an odd
address is the spec's decision D5 (log entry 9), the refusal beyond `DM_BYTES` D3 (log entry 24);
what a region of `MEM_MAP` answers and sees is log entry 23. Decisions of the spec used: D2 and D30
(log entry 10), D11 (log entry 18), D15 (log entry 25), D34 (log entry 27), D3 and D6 (log entry
30). -/
def Obligations.LoadsWithRegisterOffset : Prop :=
  ∀ (s : State) (rs rn rd : Reg), s.pfx.valid = false →
    decode (formatR1 0b0011001#7 rn.bits rs.bits rd.bits) = .ok (.movw_nr rs rn rd) ∧
    LoadsWord s (exec (.movw_nr rs rn rd) s) (s.reg rs + s.reg rn) rd ∧
    decode (formatR1 0b0011010#7 rn.bits rs.bits rd.bits) = .ok (.movzb_nr rs rn rd) ∧
    LoadsByteZext s (exec (.movzb_nr rs rn rd) s) (s.reg rs + s.reg rn) rd ∧
    decode (formatR1 0b0011011#7 rn.bits rs.bits rd.bits) = .ok (.movsb_nr rs rn rd) ∧
    LoadsByteSext s (exec (.movsb_nr rs rn rd) s) (s.reg rs + s.reg rn) rd

/-- R145, R146, with R42 and R44: the stores with register + register. The fault at an odd address
is the spec's decision D5 (log entry 9), the refusal beyond `DM_BYTES` D3 (log entry 24); what a
region of `MEM_MAP` sees is log entry 23. Decisions of the spec used: D2 and D30 (log entry 10), D11
(log entry 18), D15 (log entry 25), D3 and D6 (log entry 30). -/
def Obligations.StoresWithRegisterOffset : Prop :=
  ∀ (s : State) (rs rn rd : Reg), s.pfx.valid = false →
    decode (formatR1 0b0011100#7 rn.bits rs.bits rd.bits) = .ok (.movw_rn rd rs rn) ∧
    StoresWord s (exec (.movw_rn rd rs rn) s) (s.reg rs + s.reg rn) (s.reg rd) ∧
    decode (formatR1 0b0011101#7 rn.bits rs.bits rd.bits) = .ok (.movb_rn rd rs rn) ∧
    StoresByte s (exec (.movb_rn rd rs rn) s) (s.reg rs + s.reg rn) (s.reg rd)

/-! ## Control flow and the stack -/

/-- R126: `br%cc` goes to base plus offset when its condition holds, else to the next word; the base
is `BR_BASE`, by default the next word (the spec's decision D10; log entry 11). Decisions of the
spec used: D2 and D30 (log entry 10), D11 (log entry 18), D15 (log entry 25). -/
def Obligations.ConditionalBranch : Prop :=
  ∀ (s : State) (cc : Cond) (a : BitVec 9),
    decode (formatBranch cc.bits a) = .ok (.br_ck cc a) ∧
    (condHolds cc s.sr = true → s.cfg.brBase = .nextWord →
      GoesTo s (exec (.br_ck cc a) s) (s.pc + 1 + s.effImm a .sext)) ∧
    (condHolds cc s.sr = true → s.cfg.brBase = .branchWord →
      GoesTo s (exec (.br_ck cc a) s) (s.pc + s.effImm a .sext)) ∧
    (condHolds cc s.sr = false → GoesTo s (exec (.br_ck cc a) s) (s.pc + 1))

/-- R128, R168: `jmp Label`, relative to `BR_BASE` (the spec's decision D10; log entry 11), and `jmp
Rd`, absolute. R168 says that a target at or beyond `PM_WORDS` is refused, and R186 lists that
refusal at the fetch: that the jump itself completes and the fetch after it is refused is the
model's reading, log entry 24. Decisions of the spec used: D2 and D30 (log entry 10), D11 (log entry
18), D21 (log entry 22), D15 (log entry 25). -/
def Obligations.UnconditionalJumps : Prop :=
  ∀ (s : State) (a : BitVec 9) (rd : Reg) (x : BitVec 3),
    decode (formatJ 0b0011111#7 a) = .ok (.jmp_k a) ∧
    (s.cfg.brBase = .nextWord →
      GoesTo s (exec (.jmp_k a) s) (s.pc + 1 + s.effImm a .sext)) ∧
    (s.cfg.brBase = .branchWord → GoesTo s (exec (.jmp_k a) s) (s.pc + s.effImm a .sext)) ∧
    decode (formatR2 0b0000000010#10 x rd.bits) = .ok (.jmp_r rd) ∧
    (s.pfx.valid = false → GoesTo s (exec (.jmp_r rd) s) (s.reg rd))

/-- R170, with R42 and R44: `push Rd` decrements SP, then stores Rd at the new SP; the amount is
`STACK_STEP` (the spec's decision D18; log entry 14). The fault at an odd address is the spec's
decision D5 (log entry 9), the refusal beyond `DM_BYTES` D3 (log entry 24); what a region of
`MEM_MAP` sees is log entry 23. Decisions of the spec used: D2 and D30 (log entry 10), D11 (log
entry 18), D21 (log entry 22), D15 (log entry 25). -/
def Obligations.PushDecrementsThenStores : Prop :=
  ∀ (s : State) (rd : Reg) (x : BitVec 3), s.pfx.valid = false →
    decode (formatR2 0b0000010010#10 x rd.bits) = .ok (.push_r rd) ∧
    PushesAndGoesTo s (exec (.push_r rd) s) (s.reg rd) (s.pc + 1)

/-- R171, R175, with R42 and R43: `pop Rd` and `ret` load the word at SP, then increment SP; `ret`
loads it into PC (the spec's decision D19), and the amount is `STACK_STEP` (D18; log entry 14). The
fault at an odd address is the spec's decision D5 (log entry 9), the refusal beyond `DM_BYTES` D3
(log entry 24); what a region of `MEM_MAP` answers and sees is log entry 23. Decisions of the spec
used: D2 and D30 (log entry 10), D11 (log entry 18), D21 (log entry 22), D15 (log entry 25). -/
def Obligations.PopAndReturnLoadThenIncrement : Prop :=
  ∀ (s : State) (rd : Reg) (x : BitVec 3) (x' : BitVec 6), s.pfx.valid = false →
    decode (formatR2 0b0000011010#10 x rd.bits) = .ok (.pop_r rd) ∧
    WordAccess s (exec (.pop_r rd) s) s.sp
      (∃ t, exec (.pop_r rd) s = .next t ∧ t.reg rd = wordAt s s.sp ∧ RegsKeptBut s t rd ∧
        t.sp = s.sp + s.cfg.stackStep ∧ t.sr = s.sr ∧ MemoryKept s t ∧
        MachineKeptBy (.readWord s.sp) (WordInRegion s.cfg s.sp) s t ∧ Advanced s t) ∧
    decode (formatR2Zero 0b0000000011#10 x') = .ok .ret ∧
    WordAccess s (exec .ret s) s.sp
      (∃ t, exec .ret s = .next t ∧ t.pc = wordAt s s.sp ∧ t.pfx.valid = false ∧
        RegsKept s t ∧ t.sp = s.sp + s.cfg.stackStep ∧ t.sr = s.sr ∧ MemoryKept s t ∧
        MachineKeptBy (.readWord s.sp) (WordInRegion s.cfg s.sp) s t)

/-! ## System instructions, and those that only stop -/

/-- R177, R178: `dint` and `eint` write I and nothing else; which value means enabled is the spec's
decision D22 (log entry 19). Decisions of the spec used: D2 and D30 (log entry 10), D11 (log entry
18), D21 (log entry 22), D15 (log entry 25). -/
def Obligations.InterruptFlagInstructions : Prop :=
  ∀ (s : State) (x : BitVec 6), s.pfx.valid = false →
    decode (formatR2Zero 0b0000010011#10 x) = .ok .dint ∧
    (∃ t, exec .dint s = .next t ∧ t.sr = { s.sr with i := false } ∧ RegsKept s t ∧
      t.sp = s.sp ∧ MemoryKept s t ∧ MachineKept s t ∧ Advanced s t) ∧
    decode (formatR2Zero 0b0000011011#10 x) = .ok .eint ∧
    (∃ t, exec .eint s = .next t ∧ t.sr = { s.sr with i := true } ∧ RegsKept s t ∧
      t.sp = s.sp ∧ MemoryKept s t ∧ MachineKept s t ∧ Advanced s t)

/-- R179, R30: `halt` sets RUN to halted and PC to the next word, changes nothing else, and no other
instruction changes RUN (the spec's decision D24). Decisions of the spec used: D2 and D30 (log entry
10), D24 (log entry 16), D11 (log entry 18), D21 (log entry 22), D15 (log entry 25). -/
def Obligations.HaltStopsTheMachine : Prop :=
  (∀ (s : State) (x : BitVec 6), s.pfx.valid = false →
    decode (formatR2Zero 0b0000100011#10 x) = .ok .halt ∧
    ∃ t, exec .halt s = .next t ∧ t.run = .halted ∧ Advanced s t ∧ RegsKept s t ∧
      t.sp = s.sp ∧ t.sr = s.sr ∧ MemoryKept s t ∧ t.pm = s.pm ∧ t.cfg = s.cfg ∧
      t.regionLog = s.regionLog) ∧
  ∀ (i : Instr) (s t : State), exec i s = .next t → i ≠ .halt → t.run = s.run

/-- R176 (the spec's decision D23): `reti` is refused under `IRQ_MODEL` = none, in every state
without a pending prefix. Decisions of the spec used: D23 (log entry 15), D21 (log entry 22). -/
def Obligations.ReturnFromInterruptIsRefused : Prop :=
  ∀ (s : State) (x : BitVec 6), s.cfg.irqModel = .none → s.pfx.valid = false →
    decode (formatR2Zero 0b0000001011#10 x) = .ok .reti ∧
    exec .reti s = .refused .returnFromInterrupt

/-- R71, R73, R160, R172, R173, R174, R180: exactly the words of the ten reserved rows and of `mov
SR, Rd` and `mov Rd, SR` decode to an instruction that is not implemented, and executing one is the
fault IllegalInstruction with the word and PC (the spec's decision D20; log entry 17):
reserved_110_000, reserved_011_001, reserved_100_001, reserved_111_001, reserved_100_010,
reserved_101_010, reserved_101_011, reserved_110_011, reserved_111_011, reserved_xxx_10x, mov_sr,
mov_rs. -/
def Obligations.ReservedAndNotImplementedWordsFault : Prop :=
  ∀ (w : Word) (i : Instr) (s : State), decode w = .ok i →
    (i.implemented = false ↔
      w &&& 0xFFC0#16 ∈ [0x0C00#16, 0x0640#16, 0x0840#16, 0x0E40#16, 0x0880#16, 0x0A80#16,
        0x0AC0#16, 0x0CC0#16, 0x0EC0#16, 0x0C80#16, 0x0E80#16] ∨ w &&& 0xF180#16 = 0x0100#16) ∧
    (i.implemented = false → s.pfx.valid = false →
      exec i s = .fault (.illegalInstruction w s.pc))

/-! ## Instructions that belong together -/

/-- R140: `add lo; addc hi` is a 32-bit addition, whichever registers hold the halves, as long as
the first result does not overwrite a high operand. Decisions of the spec used: D12 (log entry 20),
D17 (log entry 26). -/
def Obligations.AddThenAddcIsA32BitAddition : Prop :=
  ∀ (s : State) (ah al bh bl dh dl : Reg), s.pfx.valid = false →
    dl ≠ ah → dl ≠ bh → dl ≠ dh →
    ∃ t u, exec (.add_rrr al bl dl) s = .next t ∧ exec (.adc_rrr ah bh dh) t = .next u ∧
      pair u dh dl = (pair s ah al + pair s bh bl) % 4294967296 ∧
      (u.sr.c = true ↔ 4294967296 ≤ pair s ah al + pair s bh bl)

/-- R136: under `SUBC_BORROW` = chained `sub lo; subc hi` is a 32-bit subtraction, and C then says
that it did not borrow. Decisions of the spec used: D12 (log entry 20). -/
def Obligations.SubThenSubcIsA32BitSubtractionWhenChained : Prop :=
  ∀ (s : State) (ah al bh bl dh dl : Reg), s.pfx.valid = false → s.cfg.subcBorrow = .chained →
    dl ≠ ah → dl ≠ bh → dl ≠ dh →
    ∃ t u, exec (.sub_rrr al bl dl) s = .next t ∧ exec (.subc_rrr ah bh dh) t = .next u ∧
      (pair u dh dl : Int) = ((pair s ah al : Int) - pair s bh bl) % 4294967296 ∧
      (u.sr.c = true ↔ pair s bh bl ≤ pair s ah al)

/-- R164: `lsr hi; lsrc lo` shifts a 32-bit value right by one. -/
def Obligations.LsrThenLsrcShifts32Bits : Prop :=
  ∀ (s : State) (ah al dh dl : Reg), s.pfx.valid = false → dh ≠ al → dl ≠ dh →
    ∃ t u, exec (.lsr_rr ah dh) s = .next t ∧ exec (.lsrc_rr al dl) t = .next u ∧
      pair u dh dl = pair s ah al / 2 ∧ (u.sr.c = true ↔ pair s ah al % 2 = 1)

/-- R170, R171: `push Rs` then `pop Rd` leaves SP as it was and Rs in Rd; with Rd = Rs all registers
are as they were. Only the two bytes below SP change. Both are plain memory: what a region of
`MEM_MAP` answers is free (log entry 23). The stack is the spec's decision D18 (log entry 14).
Decisions of the spec used: D15 (log entry 25). -/
def Obligations.PushThenPopRestores : Prop :=
  ∀ (s : State) (rs rd : Reg), s.pfx.valid = false →
    IsEven (s.sp - s.cfg.stackStep) → PlainWord s.cfg (s.sp - s.cfg.stackStep) →
    ∃ t u, exec (.push_r rs) s = .next t ∧ exec (.pop_r rd) t = .next u ∧
      u.reg rd = s.reg rs ∧ RegsKeptBut s u rd ∧ u.sp = s.sp ∧ u.sr = s.sr ∧
      WordStored s u (s.sp - s.cfg.stackStep) (s.reg rs)

/-- R91, R175: `call` then `ret` comes back to the word after the call with SP as it was, whatever
the target and with or without a prefix on the call (the spec's decision D19; log entry 14). The
word below SP is plain memory (log entry 23). Decisions of the spec used: D2 and D30 (log entry 10),
D9 (log entry 12), D11 (log entry 18), D15 (log entry 25). -/
def Obligations.CallThenReturnComesBack : Prop :=
  ∀ (s : State) (a : BitVec 11),
    IsEven (s.sp - s.cfg.stackStep) → PlainWord s.cfg (s.sp - s.cfg.stackStep) →
    ∃ t u, exec (.call a) s = .next t ∧ t.pc = s.effImm a s.cfg.callExt ∧
      exec .ret t = .next u ∧ u.pc = s.pc + 1 ∧ u.sp = s.sp ∧ RegsKept s u ∧ u.sr = s.sr

/-- R68, R69, R75, R79, R80, R81: the assembler's expansions do what their names say. An implemented
instruction in its own spelling is itself. `nop` is `mov r0, r0`, the word 0: it changes nothing and
advances PC. `lsl Rs, Rd` is `add Rs, Rs, Rd`: it doubles Rs, with the old bit 15 in C and V, S, Z
those of the addition (derived in R79); `addc Rs, Rs, Rd` is the shift left through carry. `sel` on
`ule` and on `le` is `sel` on `ugt` and `gt` with the sources exchanged (derived in R81). The form
with a 16-bit operand X is `pfix_k` with bits 15..5 of X and then an instruction of the same row
whose word is that of the core instruction on every bit outside the immediate field (same registers,
same condition), with bits 4..0 of X in the field's low five bits; the operand is then X, whatever
the width of the field, its other bits and its extension. The zeros in the field's discarded bits
are the spec's decision D21 (R80; log entry 29). Decisions of the spec used: D2 and D30 (log entry
10), D11 (log entry 18), D12 (log entry 20), D21 (log entry 22), D15 (log entry 25), D34 (log entry
27). -/
def Obligations.AssemblerExpansionsDoWhatTheyName : Prop :=
  (∀ i : Instr, i.implemented = true → i.isPrefix = false →
    (AsmSource.core i).expand = some [i]) ∧
  ∀ (s : State) (rs rn rd : Reg), s.pfx.valid = false →
    AsmSource.nop.expand = some [.mov_rr .r0 .r0] ∧ encode (.mov_rr .r0 .r0) = 0 ∧
    (∃ t, exec (.mov_rr .r0 .r0) s = .next t ∧ RegsKept s t ∧ t.sp = s.sp ∧ t.sr = s.sr ∧
      MemoryKept s t ∧ MachineKept s t ∧ Advanced s t) ∧
    (AsmSource.lsl rs rd).expand = some [.add_rrr rs rs rd] ∧
    WritesRegAndFlags s (exec (.add_rrr rs rs rd) s) rd (aluAdd (s.reg rs) (s.reg rs) false) ∧
    (aluAdd (s.reg rs) (s.reg rs) false).r.toNat = 2 * (s.reg rs).toNat % 65536 ∧
    (aluAdd (s.reg rs) (s.reg rs) false).c = (s.reg rs).getLsbD 15 ∧
    WritesRegAndFlags s (exec (.adc_rrr rs rs rd) s) rd (aluAdd (s.reg rs) (s.reg rs) s.sr.c) ∧
    (aluAdd (s.reg rs) (s.reg rs) s.sr.c).r.toNat =
      (2 * (s.reg rs).toNat + s.sr.c.toNat) % 65536 ∧
    (aluAdd (s.reg rs) (s.reg rs) s.sr.c).c = (s.reg rs).getLsbD 15 ∧
    (AsmSource.selUle rs rn rd).expand = some [.sel_crrr .ugt rn rs rd] ∧
    WritesReg s (exec (.sel_crrr .ugt rn rs rd) s) rd
      (if s.sr.c = false ∨ s.sr.z = true then s.reg rs else s.reg rn) ∧
    (AsmSource.selLe rs rn rd).expand = some [.sel_crrr .gt rn rs rd] ∧
    WritesReg s (exec (.sel_crrr .gt rn rs rd) s) rd
      (if s.sr.s ≠ s.sr.v ∨ s.sr.z = true then s.reg rs else s.reg rn) ∧
    ∀ (i : Instr) (x : Word), i.prefixable = true →
      ∃ j t, (AsmSource.long i x).expand = some [.pfix_k (x.extractLsb' 5 11), j] ∧
        j.opcodeRow = i.opcodeRow ∧ WordWithOperand i x (encode i) (encode j) ∧
        exec (.pfix_k (x.extractLsb' 5 11)) s = .next t ∧
        ∀ (n : Nat) (field : BitVec n) (ext : Ext), 5 ≤ n → n ≤ 16 →
          field.extractLsb' 0 5 = x.extractLsb' 0 5 → t.effImm field ext = x
end

