-- ==== Sys2Proof/Laws/Decode.lean ====
section
/-! SUPPORT. The fields of a word put together by a format (spec/30_encoding.md R60 to R65), and the
3-bit fields of registers and conditions. -/

namespace Sys2Proof.Laws

@[simp] theorem reg_ofBits_bits (r : Reg) : Reg.ofBits r.bits = r := by
  cases r <;> rfl

@[simp] theorem cond_ofBits_bits (c : Cond) : Cond.ofBits c.bits = c := by
  cases c <;> rfl

theorem reg_bits_ofBits (b : BitVec 3) : (Reg.ofBits b).bits = b := by
  revert b; decide

theorem cond_bits_ofBits (b : BitVec 3) : (Cond.ofBits b).bits = b := by
  revert b; decide

/-- A slice of a slice. -/
theorem extract_extract (w : Word) (lo len lo' len' : Nat) (h : lo' + len' ≤ len) :
    (w.extractLsb' lo len).extractLsb' lo' len' = w.extractLsb' (lo + lo') len' := by
  apply BitVec.eq_of_getLsbD_eq
  intro i hi
  simp only [BitVec.getLsbD_extractLsb', hi, decide_true, Bool.true_and]
  rw [decide_eq_true (by omega : lo' + i < len), Bool.true_and, Nat.add_assoc]

@[simp] theorem formatP_op (op : BitVec 5) (imm : BitVec 11) : (formatP op imm).extractLsb' 11 5 = op := by
  apply BitVec.eq_of_getLsbD_eq
  intro i hi
  interval_cases i <;> simp [formatP, BitVec.getLsbD_of_ge]

@[simp] theorem formatP_imm (op : BitVec 5) (imm : BitVec 11) : (formatP op imm).extractLsb' 0 11 = imm := by
  apply BitVec.eq_of_getLsbD_eq
  intro i hi
  interval_cases i <;> simp [formatP]

@[simp] theorem formatI1_op (op : BitVec 5) (k : BitVec 5) (rs : BitVec 3) (rd : BitVec 3) : (formatI1 op k rs rd).extractLsb' 11 5 = op := by
  apply BitVec.eq_of_getLsbD_eq
  intro i hi
  interval_cases i <;> simp [formatI1, BitVec.getLsbD_of_ge]

@[simp] theorem formatI1_k (op : BitVec 5) (k : BitVec 5) (rs : BitVec 3) (rd : BitVec 3) : (formatI1 op k rs rd).extractLsb' 6 5 = k := by
  apply BitVec.eq_of_getLsbD_eq
  intro i hi
  interval_cases i <;> simp [formatI1, BitVec.getLsbD_of_ge]

@[simp] theorem formatI1_rs (op : BitVec 5) (k : BitVec 5) (rs : BitVec 3) (rd : BitVec 3) : (formatI1 op k rs rd).extractLsb' 3 3 = rs := by
  apply BitVec.eq_of_getLsbD_eq
  intro i hi
  interval_cases i <;> simp [formatI1, BitVec.getLsbD_of_ge]

@[simp] theorem formatI1_rd (op : BitVec 5) (k : BitVec 5) (rs : BitVec 3) (rd : BitVec 3) : (formatI1 op k rs rd).extractLsb' 0 3 = rd := by
  apply BitVec.eq_of_getLsbD_eq
  intro i hi
  interval_cases i <;> simp [formatI1]

@[simp] theorem formatI2_op (op : BitVec 5) (k : BitVec 8) (rd : BitVec 3) : (formatI2 op k rd).extractLsb' 11 5 = op := by
  apply BitVec.eq_of_getLsbD_eq
  intro i hi
  interval_cases i <;> simp [formatI2, BitVec.getLsbD_of_ge]

@[simp] theorem formatI2_k (op : BitVec 5) (k : BitVec 8) (rd : BitVec 3) : (formatI2 op k rd).extractLsb' 3 8 = k := by
  apply BitVec.eq_of_getLsbD_eq
  intro i hi
  interval_cases i <;> simp [formatI2, BitVec.getLsbD_of_ge]

@[simp] theorem formatI2_rd (op : BitVec 5) (k : BitVec 8) (rd : BitVec 3) : (formatI2 op k rd).extractLsb' 0 3 = rd := by
  apply BitVec.eq_of_getLsbD_eq
  intro i hi
  interval_cases i <;> simp [formatI2]

@[simp] theorem formatBranch_cc (cc : BitVec 3) (a : BitVec 9) : (formatBranch cc a).extractLsb' 9 3 = cc := by
  apply BitVec.eq_of_getLsbD_eq
  intro i hi
  interval_cases i <;> simp [formatBranch, BitVec.getLsbD_of_ge]

@[simp] theorem formatBranch_a (cc : BitVec 3) (a : BitVec 9) : (formatBranch cc a).extractLsb' 0 9 = a := by
  apply BitVec.eq_of_getLsbD_eq
  intro i hi
  interval_cases i <;> simp [formatBranch]

@[simp] theorem formatJ_op (op : BitVec 7) (a : BitVec 9) : (formatJ op a).extractLsb' 9 7 = op := by
  apply BitVec.eq_of_getLsbD_eq
  intro i hi
  interval_cases i <;> simp [formatJ, BitVec.getLsbD_of_ge]

@[simp] theorem formatJ_a (op : BitVec 7) (a : BitVec 9) : (formatJ op a).extractLsb' 0 9 = a := by
  apply BitVec.eq_of_getLsbD_eq
  intro i hi
  interval_cases i <;> simp [formatJ]

@[simp] theorem formatR1_op (op : BitVec 7) (rn : BitVec 3) (rs : BitVec 3) (rd : BitVec 3) : (formatR1 op rn rs rd).extractLsb' 9 7 = op := by
  apply BitVec.eq_of_getLsbD_eq
  intro i hi
  interval_cases i <;> simp [formatR1, BitVec.getLsbD_of_ge]

@[simp] theorem formatR1_rn (op : BitVec 7) (rn : BitVec 3) (rs : BitVec 3) (rd : BitVec 3) : (formatR1 op rn rs rd).extractLsb' 6 3 = rn := by
  apply BitVec.eq_of_getLsbD_eq
  intro i hi
  interval_cases i <;> simp [formatR1, BitVec.getLsbD_of_ge]

@[simp] theorem formatR1_rs (op : BitVec 7) (rn : BitVec 3) (rs : BitVec 3) (rd : BitVec 3) : (formatR1 op rn rs rd).extractLsb' 3 3 = rs := by
  apply BitVec.eq_of_getLsbD_eq
  intro i hi
  interval_cases i <;> simp [formatR1, BitVec.getLsbD_of_ge]

@[simp] theorem formatR1_rd (op : BitVec 7) (rn : BitVec 3) (rs : BitVec 3) (rd : BitVec 3) : (formatR1 op rn rs rd).extractLsb' 0 3 = rd := by
  apply BitVec.eq_of_getLsbD_eq
  intro i hi
  interval_cases i <;> simp [formatR1]

@[simp] theorem formatSelect_cc (cc : BitVec 3) (rn : BitVec 3) (rs : BitVec 3) (rd : BitVec 3) : (formatSelect cc rn rs rd).extractLsb' 9 3 = cc := by
  apply BitVec.eq_of_getLsbD_eq
  intro i hi
  interval_cases i <;> simp [formatSelect, BitVec.getLsbD_of_ge]

@[simp] theorem formatSelect_rn (cc : BitVec 3) (rn : BitVec 3) (rs : BitVec 3) (rd : BitVec 3) : (formatSelect cc rn rs rd).extractLsb' 6 3 = rn := by
  apply BitVec.eq_of_getLsbD_eq
  intro i hi
  interval_cases i <;> simp [formatSelect, BitVec.getLsbD_of_ge]

@[simp] theorem formatSelect_rs (cc : BitVec 3) (rn : BitVec 3) (rs : BitVec 3) (rd : BitVec 3) : (formatSelect cc rn rs rd).extractLsb' 3 3 = rs := by
  apply BitVec.eq_of_getLsbD_eq
  intro i hi
  interval_cases i <;> simp [formatSelect, BitVec.getLsbD_of_ge]

@[simp] theorem formatSelect_rd (cc : BitVec 3) (rn : BitVec 3) (rs : BitVec 3) (rd : BitVec 3) : (formatSelect cc rn rs rd).extractLsb' 0 3 = rd := by
  apply BitVec.eq_of_getLsbD_eq
  intro i hi
  interval_cases i <;> simp [formatSelect]

@[simp] theorem formatSet_cc (cc : BitVec 3) (x : BitVec 4) (rd : BitVec 3) : (formatSet cc x rd).extractLsb' 9 3 = cc := by
  apply BitVec.eq_of_getLsbD_eq
  intro i hi
  interval_cases i <;> simp [formatSet, BitVec.getLsbD_of_ge]

@[simp] theorem formatSet_x (cc : BitVec 3) (x : BitVec 4) (rd : BitVec 3) : (formatSet cc x rd).extractLsb' 3 4 = x := by
  apply BitVec.eq_of_getLsbD_eq
  intro i hi
  interval_cases i <;> simp [formatSet, BitVec.getLsbD_of_ge]

@[simp] theorem formatSet_rd (cc : BitVec 3) (x : BitVec 4) (rd : BitVec 3) : (formatSet cc x rd).extractLsb' 0 3 = rd := by
  apply BitVec.eq_of_getLsbD_eq
  intro i hi
  interval_cases i <;> simp [formatSet]

@[simp] theorem formatR2_op (op : BitVec 10) (rs : BitVec 3) (rd : BitVec 3) : (formatR2 op rs rd).extractLsb' 6 10 = op := by
  apply BitVec.eq_of_getLsbD_eq
  intro i hi
  interval_cases i <;> simp [formatR2, BitVec.getLsbD_of_ge]

@[simp] theorem formatR2_rs (op : BitVec 10) (rs : BitVec 3) (rd : BitVec 3) : (formatR2 op rs rd).extractLsb' 3 3 = rs := by
  apply BitVec.eq_of_getLsbD_eq
  intro i hi
  interval_cases i <;> simp [formatR2, BitVec.getLsbD_of_ge]

@[simp] theorem formatR2_rd (op : BitVec 10) (rs : BitVec 3) (rd : BitVec 3) : (formatR2 op rs rd).extractLsb' 0 3 = rd := by
  apply BitVec.eq_of_getLsbD_eq
  intro i hi
  interval_cases i <;> simp [formatR2]

@[simp] theorem formatR2Zero_op (op : BitVec 10) (x : BitVec 6) : (formatR2Zero op x).extractLsb' 6 10 = op := by
  apply BitVec.eq_of_getLsbD_eq
  intro i hi
  interval_cases i <;> simp [formatR2Zero, BitVec.getLsbD_of_ge]

@[simp] theorem formatR2Zero_x (op : BitVec 10) (x : BitVec 6) : (formatR2Zero op x).extractLsb' 0 6 = x := by
  apply BitVec.eq_of_getLsbD_eq
  intro i hi
  interval_cases i <;> simp [formatR2Zero]

@[simp] theorem formatReserved_opH (opH : BitVec 3) (x : BitVec 7) : (formatReserved opH x).extractLsb' 9 3 = opH := by
  apply BitVec.eq_of_getLsbD_eq
  intro i hi
  interval_cases i <;> simp [formatReserved, BitVec.getLsbD_of_ge]

@[simp] theorem formatReserved_x (opH : BitVec 3) (x : BitVec 7) : (formatReserved opH x).extractLsb' 0 7 = x := by
  apply BitVec.eq_of_getLsbD_eq
  intro i hi
  interval_cases i <;> simp [formatReserved]

@[simp] theorem formatSet_opL (cc : BitVec 3) (x : BitVec 4) (rd : BitVec 3) :
    (formatSet cc x rd).extractLsb' 7 2 = 0b11#2 := by
  apply BitVec.eq_of_getLsbD_eq
  intro i hi
  interval_cases i <;> simp [formatSet, BitVec.getLsbD_of_ge]

@[simp] theorem formatReserved_opL (opH : BitVec 3) (x : BitVec 7) :
    (formatReserved opH x).extractLsb' 7 2 = 0b10#2 := by
  apply BitVec.eq_of_getLsbD_eq
  intro i hi
  interval_cases i <;> simp [formatReserved, BitVec.getLsbD_of_ge]

@[simp] theorem formatBranch_top (cc : BitVec 3) (a : BitVec 9) :
    (formatBranch cc a).extractLsb' 12 4 = 0b0100#4 := by
  apply BitVec.eq_of_getLsbD_eq
  intro i hi
  interval_cases i <;> simp [formatBranch, BitVec.getLsbD_of_ge]

@[simp] theorem formatSelect_top (cc : BitVec 3) (rn : BitVec 3) (rs : BitVec 3) (rd : BitVec 3) :
    (formatSelect cc rn rs rd).extractLsb' 12 4 = 0b0001#4 := by
  apply BitVec.eq_of_getLsbD_eq
  intro i hi
  interval_cases i <;> simp [formatSelect, BitVec.getLsbD_of_ge]

@[simp] theorem formatSet_top (cc : BitVec 3) (x : BitVec 4) (rd : BitVec 3) :
    (formatSet cc x rd).extractLsb' 12 4 = 0b0000#4 := by
  apply BitVec.eq_of_getLsbD_eq
  intro i hi
  interval_cases i <;> simp [formatSet, BitVec.getLsbD_of_ge]

@[simp] theorem formatReserved_top (opH : BitVec 3) (x : BitVec 7) :
    (formatReserved opH x).extractLsb' 12 4 = 0b0000#4 := by
  apply BitVec.eq_of_getLsbD_eq
  intro i hi
  interval_cases i <;> simp [formatReserved, BitVec.getLsbD_of_ge]

/-! The opcode fields the decoder splits on, as slices of the opcode. -/

@[simp] theorem formatJ_opcode5 (op : BitVec 7) (a : BitVec 9) :
    (formatJ op a).extractLsb' 11 5 = op.extractLsb' 2 5 := by
  rw [← extract_extract _ 9 7 2 5 (by decide), formatJ_op]

@[simp] theorem formatJ_op4 (op : BitVec 7) (a : BitVec 9) :
    (formatJ op a).extractLsb' 9 4 = op.extractLsb' 0 4 := by
  rw [← extract_extract _ 9 7 0 4 (by decide), formatJ_op]

@[simp] theorem formatR1_opcode5 (op : BitVec 7) (rn rs rd : BitVec 3) :
    (formatR1 op rn rs rd).extractLsb' 11 5 = op.extractLsb' 2 5 := by
  rw [← extract_extract _ 9 7 2 5 (by decide), formatR1_op]

@[simp] theorem formatR1_op4 (op : BitVec 7) (rn rs rd : BitVec 3) :
    (formatR1 op rn rs rd).extractLsb' 9 4 = op.extractLsb' 0 4 := by
  rw [← extract_extract _ 9 7 0 4 (by decide), formatR1_op]

@[simp] theorem formatR2_opcode5 (op : BitVec 10) (rs rd : BitVec 3) :
    (formatR2 op rs rd).extractLsb' 11 5 = op.extractLsb' 5 5 := by
  rw [← extract_extract _ 6 10 5 5 (by decide), formatR2_op]

@[simp] theorem formatR2_opH (op : BitVec 10) (rs rd : BitVec 3) :
    (formatR2 op rs rd).extractLsb' 9 3 = op.extractLsb' 3 3 := by
  rw [← extract_extract _ 6 10 3 3 (by decide), formatR2_op]

@[simp] theorem formatR2_opL (op : BitVec 10) (rs rd : BitVec 3) :
    (formatR2 op rs rd).extractLsb' 6 3 = op.extractLsb' 0 3 := by
  rw [← extract_extract _ 6 10 0 3 (by decide), formatR2_op]

@[simp] theorem formatR2Zero_opcode5 (op : BitVec 10) (x : BitVec 6) :
    (formatR2Zero op x).extractLsb' 11 5 = op.extractLsb' 5 5 := by
  rw [← extract_extract _ 6 10 5 5 (by decide), formatR2Zero_op]

@[simp] theorem formatR2Zero_opH (op : BitVec 10) (x : BitVec 6) :
    (formatR2Zero op x).extractLsb' 9 3 = op.extractLsb' 3 3 := by
  rw [← extract_extract _ 6 10 3 3 (by decide), formatR2Zero_op]

@[simp] theorem formatR2Zero_opL (op : BitVec 10) (x : BitVec 6) :
    (formatR2Zero op x).extractLsb' 6 3 = op.extractLsb' 0 3 := by
  rw [← extract_extract _ 6 10 0 3 (by decide), formatR2Zero_op]

/-! Every word is made of its fields, format by format. -/

theorem formatP_fields (w : Word) :
    formatP (w.extractLsb' 11 5) (w.extractLsb' 0 11) = w := by
  apply BitVec.eq_of_getLsbD_eq
  intro i hi
  interval_cases i <;> simp [formatP]

theorem formatI1_fields (w : Word) :
    formatI1 (w.extractLsb' 11 5) (w.extractLsb' 6 5) (w.extractLsb' 3 3) (w.extractLsb' 0 3) = w := by
  apply BitVec.eq_of_getLsbD_eq
  intro i hi
  interval_cases i <;> simp [formatI1]

theorem formatI2_fields (w : Word) :
    formatI2 (w.extractLsb' 11 5) (w.extractLsb' 3 8) (w.extractLsb' 0 3) = w := by
  apply BitVec.eq_of_getLsbD_eq
  intro i hi
  interval_cases i <;> simp [formatI2]

theorem formatJ_fields (w : Word) :
    formatJ (w.extractLsb' 9 7) (w.extractLsb' 0 9) = w := by
  apply BitVec.eq_of_getLsbD_eq
  intro i hi
  interval_cases i <;> simp [formatJ]

theorem formatR1_fields (w : Word) :
    formatR1 (w.extractLsb' 9 7) (w.extractLsb' 6 3) (w.extractLsb' 3 3) (w.extractLsb' 0 3) = w := by
  apply BitVec.eq_of_getLsbD_eq
  intro i hi
  interval_cases i <;> simp [formatR1]

theorem formatR2_fields (w : Word) :
    formatR2 (w.extractLsb' 6 10) (w.extractLsb' 3 3) (w.extractLsb' 0 3) = w := by
  apply BitVec.eq_of_getLsbD_eq
  intro i hi
  interval_cases i <;> simp [formatR2]

theorem formatR2Zero_fields (w : Word) :
    formatR2Zero (w.extractLsb' 6 10) (w.extractLsb' 0 6) = w := by
  apply BitVec.eq_of_getLsbD_eq
  intro i hi
  interval_cases i <;> simp [formatR2Zero]

/-! The rows whose opcode is shorter than the field the decoder splits on. -/

theorem opcode5_half (w : Word) :
    (w.extractLsb' 11 5).toNat / 2 = (w.extractLsb' 12 4).toNat := by
  simp only [BitVec.extractLsb'_toNat, Nat.shiftRight_eq_div_pow]
  omega

theorem opL_half (w : Word) : (w.extractLsb' 6 3).toNat / 2 = (w.extractLsb' 7 2).toNat := by
  simp only [BitVec.extractLsb'_toNat, Nat.shiftRight_eq_div_pow]
  omega

/-- Bits 15..12 zero: format R2. -/
theorem decode_eq_decodeR2 (w : Word) (h : w.extractLsb' 12 4 = 0) : decode w = decodeR2 w := by
  have hw := opcode5_half w
  rw [h, show (0 : BitVec 4).toNat = 0 from rfl] at hw
  have hc : (w.extractLsb' 11 5).toNat = 0 ∨ (w.extractLsb' 11 5).toNat = 1 := by omega
  rcases hc with hc | hc <;> simp [decode, hc]

@[simp] theorem decode_formatBranch (cc : Cond) (a : BitVec 9) :
    decode (formatBranch cc.bits a) = .ok (.br_ck cc a) := by
  have hw := opcode5_half (formatBranch cc.bits a)
  rw [formatBranch_top, show (4#4).toNat = 4 from rfl] at hw
  have hc : ((formatBranch cc.bits a).extractLsb' 11 5).toNat = 8 ∨
      ((formatBranch cc.bits a).extractLsb' 11 5).toNat = 9 := by omega
  rcases hc with hc | hc <;> simp [decode, hc]

@[simp] theorem decode_formatSelect (cc : Cond) (rn rs rd : Reg) :
    decode (formatSelect cc.bits rn.bits rs.bits rd.bits) = .ok (.sel_crrr cc rs rn rd) := by
  have hw := opcode5_half (formatSelect cc.bits rn.bits rs.bits rd.bits)
  rw [formatSelect_top, show (1#4).toNat = 1 from rfl] at hw
  have hc : ((formatSelect cc.bits rn.bits rs.bits rd.bits).extractLsb' 11 5).toNat = 2 ∨
      ((formatSelect cc.bits rn.bits rs.bits rd.bits).extractLsb' 11 5).toNat = 3 := by omega
  rcases hc with hc | hc <;> simp [decode, hc]

@[simp] theorem decode_formatSet (cc : Cond) (x : BitVec 4) (rd : Reg) :
    decode (formatSet cc.bits x rd.bits) = .ok (.set_cr cc rd) := by
  rw [decode_eq_decodeR2 _ (by simp)]
  have hw := opL_half (formatSet cc.bits x rd.bits)
  rw [formatSet_opL, show (3#2).toNat = 3 from rfl] at hw
  have hc : ((formatSet cc.bits x rd.bits).extractLsb' 6 3).toNat = 6 ∨
      ((formatSet cc.bits x rd.bits).extractLsb' 6 3).toNat = 7 := by omega
  rcases hc with hc | hc <;> simp [decodeR2, hc]

@[simp] theorem decode_formatReserved (o : BitVec 3) (x : BitVec 7) :
    decode (formatReserved o x) = .ok (.reserved_xxx_10x o x) := by
  rw [decode_eq_decodeR2 _ (by simp)]
  have hw := opL_half (formatReserved o x)
  rw [formatReserved_opL, show (2#2).toNat = 2 from rfl] at hw
  have hc : ((formatReserved o x).extractLsb' 6 3).toNat = 4 ∨
      ((formatReserved o x).extractLsb' 6 3).toNat = 5 := by omega
  rcases hc with hc | hc <;> simp [decodeR2, hc]

end Sys2Proof.Laws
end

