-- ==== Sys2Proof/Laws/Memory.lean ====
section
/-! SUPPORT. The laws of memory: read after write, and every operation keeps the canonical form. -/

namespace Sys2Proof.Machine

@[simp] theorem memory_read_write_self {w : Nat} (m : Memory w) (a : Nat) (v : BitVec w) :
    (m.write a v).read a = some v := by
  induction m with
  | nil => simp [Memory.write, Memory.read]
  | cons cell rest ih =>
    obtain ⟨b, u⟩ := cell
    simp only [Memory.write]
    split
    · simp [Memory.read]
    · split
      · simp [Memory.read]
      · simp [Memory.read, *]

theorem memory_read_write_other {w : Nat} (m : Memory w) {a b : Nat} (v : BitVec w) (h : b ≠ a) :
    (m.write a v).read b = m.read b := by
  induction m with
  | nil => simp [Memory.write, Memory.read, h]
  | cons cell rest ih =>
    obtain ⟨c, u⟩ := cell
    simp only [Memory.write]
    split
    · simp [Memory.read, h]
    · split
      · rename_i hac
        subst hac
        simp [Memory.read, h]
      · simp [Memory.read, ih]

theorem memory_read_write {w : Nat} (m : Memory w) (a b : Nat) (v : BitVec w) :
    (m.write a v).read b = if b = a then some v else m.read b := by
  split
  · subst b; exact memory_read_write_self m a v
  · exact memory_read_write_other m v ‹_›

theorem memory_read_erase {w : Nat} (m : Memory w) (a b : Nat) :
    (m.erase a).read b = if b = a then none else m.read b := by
  induction m with
  | nil => simp [Memory.erase, Memory.read]
  | cons cell rest ih =>
    obtain ⟨c, u⟩ := cell
    simp only [Memory.erase]
    split
    · subst c
      rw [ih]
      by_cases h : b = a <;> simp [Memory.read, h]
    · by_cases h : b = c
      · subst h
        simp [Memory.read, Ne.symm ‹¬a = b›]
      · simp [Memory.read, h, ih]

theorem memory_rising_weaken {w : Nat} (m : Memory w) {lo lo' : Nat} (h : lo ≤ lo')
    (hm : m.risingFrom lo' = true) : m.risingFrom lo = true := by
  cases m with
  | nil => rfl
  | cons cell rest =>
    simp only [Memory.risingFrom, Bool.and_eq_true, decide_eq_true_eq] at hm ⊢
    exact ⟨by omega, hm.2⟩

theorem memory_rising_write {w : Nat} (m : Memory w) (a : Nat) (v : BitVec w) {lo : Nat}
    (hlo : lo ≤ a) (hm : m.risingFrom lo = true) : (m.write a v).risingFrom lo = true := by
  induction m generalizing lo with
  | nil => simp [Memory.write, Memory.risingFrom, hlo]
  | cons cell rest ih =>
    obtain ⟨b, u⟩ := cell
    simp only [Memory.risingFrom, Bool.and_eq_true, decide_eq_true_eq] at hm
    simp only [Memory.write]
    split
    · simp only [Memory.risingFrom, Bool.and_eq_true, decide_eq_true_eq]
      exact ⟨hlo, by omega, hm.2⟩
    · split
      · subst b
        simp only [Memory.risingFrom, Bool.and_eq_true, decide_eq_true_eq]
        exact ⟨hlo, hm.2⟩
      · simp only [Memory.risingFrom, Bool.and_eq_true, decide_eq_true_eq]
        exact ⟨hm.1, ih (by omega) hm.2⟩

theorem memory_below_write {w : Nat} (m : Memory w) {a limit : Nat} (v : BitVec w)
    (ha : a < limit) (hm : m.below limit = true) : (m.write a v).below limit = true := by
  induction m with
  | nil => simp [Memory.write, Memory.below, ha]
  | cons cell rest ih =>
    obtain ⟨b, u⟩ := cell
    simp only [Memory.below, List.all_cons, Bool.and_eq_true, decide_eq_true_eq] at hm ih
    simp only [Memory.write]
    split
    · simp only [Memory.below, List.all_cons, Bool.and_eq_true, decide_eq_true_eq]
      exact ⟨ha, hm⟩
    · split
      · simp only [Memory.below, List.all_cons, Bool.and_eq_true, decide_eq_true_eq]
        exact ⟨ha, hm.2⟩
      · simp only [Memory.below, List.all_cons, Bool.and_eq_true, decide_eq_true_eq]
        exact ⟨hm.1, ih hm.2⟩

/-- A write inside the address space keeps the canonical form. -/
theorem memory_wf_write {w : Nat} (m : Memory w) {a : Nat} (v : BitVec w) (ha : a < 65536)
    (hm : m.wf = true) : (m.write a v).wf = true := by
  simp only [Memory.wf, Bool.and_eq_true] at hm ⊢
  exact ⟨memory_rising_write m a v (Nat.zero_le a) hm.1, memory_below_write m v ha hm.2⟩

theorem memory_rising_erase {w : Nat} (m : Memory w) (a : Nat) {lo : Nat}
    (hm : m.risingFrom lo = true) : (m.erase a).risingFrom lo = true := by
  induction m generalizing lo with
  | nil => rfl
  | cons cell rest ih =>
    obtain ⟨b, u⟩ := cell
    simp only [Memory.risingFrom, Bool.and_eq_true, decide_eq_true_eq] at hm
    simp only [Memory.erase]
    split
    · exact memory_rising_weaken _ (by omega) (ih hm.2)
    · simp only [Memory.risingFrom, Bool.and_eq_true, decide_eq_true_eq]
      exact ⟨hm.1, ih hm.2⟩

theorem memory_all_erase {w : Nat} (p : Nat × BitVec w → Bool) (m : Memory w) (a : Nat)
    (hm : m.all p = true) : (m.erase a).all p = true := by
  induction m with
  | nil => rfl
  | cons cell rest ih =>
    obtain ⟨b, u⟩ := cell
    simp only [List.all_cons, Bool.and_eq_true] at hm
    simp only [Memory.erase]
    split
    · exact ih hm.2
    · simp only [List.all_cons, Bool.and_eq_true]
      exact ⟨hm.1, ih hm.2⟩

/-- Erasing keeps the canonical form. -/
theorem memory_wf_erase {w : Nat} (m : Memory w) (a : Nat) (hm : m.wf = true) :
    (m.erase a).wf = true := by
  simp only [Memory.wf, Bool.and_eq_true] at hm ⊢
  exact ⟨memory_rising_erase m a hm.1, memory_all_erase _ m a hm.2⟩

theorem memory_omits_write {w : Nat} (d : BitVec w) (m : Memory w) (a : Nat) {v : BitVec w}
    (hv : v ≠ d) (hm : m.omits d = true) : (m.write a v).omits d = true := by
  induction m with
  | nil => simp [Memory.write, Memory.omits, hv]
  | cons cell rest ih =>
    obtain ⟨b, u⟩ := cell
    simp only [Memory.omits, List.all_cons, Bool.and_eq_true, bne_iff_ne] at hm ih
    simp only [Memory.write]
    split
    · simp only [Memory.omits, List.all_cons, Bool.and_eq_true, bne_iff_ne]
      exact ⟨hv, hm⟩
    · split
      · simp only [Memory.omits, List.all_cons, Bool.and_eq_true, bne_iff_ne]
        exact ⟨hv, hm.2⟩
      · simp only [Memory.omits, List.all_cons, Bool.and_eq_true, bne_iff_ne]
        exact ⟨hm.1, ih hm.2⟩

/-- A write that drops the value unlisted addresses read as keeps the canonical form. -/
theorem memory_wf_writeOmitting {w : Nat} (d : BitVec w) (m : Memory w) {a : Nat} (v : BitVec w)
    (ha : a < 65536) (hm : m.wf = true) (ho : m.omits d = true) :
    (m.writeOmitting d a v).wf = true ∧ (m.writeOmitting d a v).omits d = true := by
  simp only [Memory.writeOmitting]
  split
  · exact ⟨memory_wf_erase m a hm, memory_all_erase _ m a ho⟩
  · exact ⟨memory_wf_write m v ha hm, memory_omits_write d m a ‹_› ho⟩

/-- Reading after such a write, with `d` for what is not listed. -/
theorem memory_read_writeOmitting {w : Nat} (d : BitVec w) (m : Memory w) (a b : Nat)
    (v : BitVec w) :
    ((m.writeOmitting d a v).read b).getD d = if b = a then v else (m.read b).getD d := by
  simp only [Memory.writeOmitting]
  split
  · rw [memory_read_erase]
    split <;> simp_all
  · rw [memory_read_write]
    split <;> simp

theorem memory_rising_layout {w : Nat} (d : BitVec w) (l : List (BitVec w)) (a : Nat) :
    (Memory.layout d a l).risingFrom a = true := by
  induction l generalizing a with
  | nil => rfl
  | cons v rest ih =>
    simp only [Memory.layout]
    split
    · exact memory_rising_weaken _ (Nat.le_succ a) (ih (a + 1))
    · simp [Memory.risingFrom, ih (a + 1)]

theorem memory_below_layout {w : Nat} (d : BitVec w) (l : List (BitVec w)) (a limit : Nat)
    (h : a + l.length ≤ limit) : (Memory.layout d a l).below limit = true := by
  induction l generalizing a with
  | nil => rfl
  | cons v rest ih =>
    simp only [List.length_cons] at h
    have hr := ih (a + 1) (by omega)
    simp only [Memory.layout]
    split
    · exact hr
    · simp only [Memory.below, List.all_cons, Bool.and_eq_true, decide_eq_true_eq] at hr ⊢
      exact ⟨by omega, hr⟩

theorem memory_omits_layout {w : Nat} (d : BitVec w) (l : List (BitVec w)) (a : Nat) :
    (Memory.layout d a l).omits d = true := by
  induction l generalizing a with
  | nil => rfl
  | cons v rest ih =>
    simp only [Memory.layout]
    split
    · exact ih (a + 1)
    · simp only [Memory.omits, List.all_cons, Bool.and_eq_true, bne_iff_ne]
      exact ⟨‹_›, ih (a + 1)⟩

/-- What a laid-out list reads as. -/
theorem memory_read_layout {w : Nat} (d : BitVec w) (l : List (BitVec w)) (a b : Nat) (h : a ≤ b) :
    ((Memory.layout d a l).read b).getD d = (l[b - a]?).getD d := by
  induction l generalizing a with
  | nil => simp [Memory.layout, Memory.read]
  | cons v rest ih =>
    simp only [Memory.layout]
    by_cases hb : b = a
    · subst hb
      split
      · rename_i hv
        have : (Memory.layout d (b + 1) rest).read b = none := by
          have key : ∀ (l : List (BitVec w)) (c : Nat), b < c →
              (Memory.layout d c l).read b = none := by
            intro l
            induction l with
            | nil => intro c _; rfl
            | cons u us ihu =>
              intro c hc
              simp only [Memory.layout]
              split
              · exact ihu _ (by omega)
              · simp only [Memory.read]
                rw [if_neg (by omega)]
                exact ihu _ (by omega)
          exact key rest _ (Nat.lt_succ_self b)
        simp [this, hv]
      · simp [Memory.read]
    · have hlt : a + 1 ≤ b := by omega
      have hi : b - a = (b - (a + 1)) + 1 := by omega
      split
      · rw [ih (a + 1) hlt, hi]; simp
      · simp only [Memory.read, hb, if_false]
        rw [ih (a + 1) hlt, hi]; simp

end Sys2Proof.Machine
end

