-- ==== Sys2Proof/Laws/State.lean ====
section
/-! SUPPORT. One lemma per field per update of State, true by definition, so that no proof unfolds a
record update; and the register file's read-after-write law. -/

namespace Sys2Proof.Machine

@[simp] theorem setReg_cfg (s : State) (r : Reg) (v : Word) :
    (s.setReg r v).cfg = s.cfg := rfl
@[simp] theorem setReg_sp (s : State) (r : Reg) (v : Word) :
    (s.setReg r v).sp = s.sp := rfl
@[simp] theorem setReg_pc (s : State) (r : Reg) (v : Word) :
    (s.setReg r v).pc = s.pc := rfl
@[simp] theorem setReg_sr (s : State) (r : Reg) (v : Word) :
    (s.setReg r v).sr = s.sr := rfl
@[simp] theorem setReg_pfx (s : State) (r : Reg) (v : Word) :
    (s.setReg r v).pfx = s.pfx := rfl
@[simp] theorem setReg_run (s : State) (r : Reg) (v : Word) :
    (s.setReg r v).run = s.run := rfl
@[simp] theorem setReg_dm (s : State) (r : Reg) (v : Word) :
    (s.setReg r v).dm = s.dm := rfl
@[simp] theorem setReg_pm (s : State) (r : Reg) (v : Word) :
    (s.setReg r v).pm = s.pm := rfl
@[simp] theorem setReg_free (s : State) (r : Reg) (v : Word) :
    (s.setReg r v).free = s.free := rfl
@[simp] theorem setReg_regionLog (s : State) (r : Reg) (v : Word) :
    (s.setReg r v).regionLog = s.regionLog := rfl
@[simp] theorem setReg_next (s : State) (r : Reg) (v : Word) : (s.setReg r v).next = s.next := rfl
@[simp] theorem setReg_dmByte (s : State) (r : Reg) (v : Word) (q : Word) : (s.setReg r v).dmByte q = s.dmByte q := rfl
@[simp] theorem setReg_dataByte (s : State) (r : Reg) (v : Word) (x : RegionAccess) (q : Word) :
    (s.setReg r v).dataByte x q = s.dataByte x q := rfl

@[simp] theorem setSp_cfg (s : State) (v : Word) :
    (s.setSp v).cfg = s.cfg := rfl
@[simp] theorem setSp_regs (s : State) (v : Word) :
    (s.setSp v).regs = s.regs := rfl
@[simp] theorem setSp_sp (s : State) (v : Word) :
    (s.setSp v).sp = v := rfl
@[simp] theorem setSp_pc (s : State) (v : Word) :
    (s.setSp v).pc = s.pc := rfl
@[simp] theorem setSp_sr (s : State) (v : Word) :
    (s.setSp v).sr = s.sr := rfl
@[simp] theorem setSp_pfx (s : State) (v : Word) :
    (s.setSp v).pfx = s.pfx := rfl
@[simp] theorem setSp_run (s : State) (v : Word) :
    (s.setSp v).run = s.run := rfl
@[simp] theorem setSp_dm (s : State) (v : Word) :
    (s.setSp v).dm = s.dm := rfl
@[simp] theorem setSp_pm (s : State) (v : Word) :
    (s.setSp v).pm = s.pm := rfl
@[simp] theorem setSp_free (s : State) (v : Word) :
    (s.setSp v).free = s.free := rfl
@[simp] theorem setSp_regionLog (s : State) (v : Word) :
    (s.setSp v).regionLog = s.regionLog := rfl
@[simp] theorem setSp_reg (s : State) (v : Word) (q : Reg) : (s.setSp v).reg q = s.reg q := rfl
@[simp] theorem setSp_next (s : State) (v : Word) : (s.setSp v).next = s.next := rfl
@[simp] theorem setSp_dmByte (s : State) (v : Word) (q : Word) : (s.setSp v).dmByte q = s.dmByte q := rfl
@[simp] theorem setSp_dataByte (s : State) (v : Word) (x : RegionAccess) (q : Word) :
    (s.setSp v).dataByte x q = s.dataByte x q := rfl

@[simp] theorem setArith_cfg (s : State) (x : Alu) :
    (s.setArith x).cfg = s.cfg := rfl
@[simp] theorem setArith_regs (s : State) (x : Alu) :
    (s.setArith x).regs = s.regs := rfl
@[simp] theorem setArith_sp (s : State) (x : Alu) :
    (s.setArith x).sp = s.sp := rfl
@[simp] theorem setArith_pc (s : State) (x : Alu) :
    (s.setArith x).pc = s.pc := rfl
@[simp] theorem setArith_sr (s : State) (x : Alu) :
    (s.setArith x).sr = { i := s.sr.i, v := x.v, s := x.s, c := x.c, z := x.z } := rfl
@[simp] theorem setArith_pfx (s : State) (x : Alu) :
    (s.setArith x).pfx = s.pfx := rfl
@[simp] theorem setArith_run (s : State) (x : Alu) :
    (s.setArith x).run = s.run := rfl
@[simp] theorem setArith_dm (s : State) (x : Alu) :
    (s.setArith x).dm = s.dm := rfl
@[simp] theorem setArith_pm (s : State) (x : Alu) :
    (s.setArith x).pm = s.pm := rfl
@[simp] theorem setArith_free (s : State) (x : Alu) :
    (s.setArith x).free = s.free := rfl
@[simp] theorem setArith_regionLog (s : State) (x : Alu) :
    (s.setArith x).regionLog = s.regionLog := rfl
@[simp] theorem setArith_reg (s : State) (x : Alu) (q : Reg) : (s.setArith x).reg q = s.reg q := rfl
@[simp] theorem setArith_next (s : State) (x : Alu) : (s.setArith x).next = s.next := rfl
@[simp] theorem setArith_dmByte (s : State) (x : Alu) (q : Word) : (s.setArith x).dmByte q = s.dmByte q := rfl
@[simp] theorem setArith_dataByte (s : State) (x : Alu) (y : RegionAccess) (q : Word) :
    (s.setArith x).dataByte y q = s.dataByte y q := rfl

@[simp] theorem setLogic_cfg (s : State) (r : Word) :
    (s.setLogic r).cfg = s.cfg := rfl
@[simp] theorem setLogic_regs (s : State) (r : Word) :
    (s.setLogic r).regs = s.regs := rfl
@[simp] theorem setLogic_sp (s : State) (r : Word) :
    (s.setLogic r).sp = s.sp := rfl
@[simp] theorem setLogic_pc (s : State) (r : Word) :
    (s.setLogic r).pc = s.pc := rfl
@[simp] theorem setLogic_sr (s : State) (r : Word) :
    (s.setLogic r).sr = ⟨s.sr.i, Config.freeBit s.free, r.msb,
      Config.freeBit (s.free + 1), r == 0⟩ := rfl
@[simp] theorem setLogic_pfx (s : State) (r : Word) :
    (s.setLogic r).pfx = s.pfx := rfl
@[simp] theorem setLogic_run (s : State) (r : Word) :
    (s.setLogic r).run = s.run := rfl
@[simp] theorem setLogic_dm (s : State) (r : Word) :
    (s.setLogic r).dm = s.dm := rfl
@[simp] theorem setLogic_pm (s : State) (r : Word) :
    (s.setLogic r).pm = s.pm := rfl
@[simp] theorem setLogic_free (s : State) (r : Word) :
    (s.setLogic r).free = s.free + 2 := rfl
@[simp] theorem setLogic_regionLog (s : State) (r : Word) :
    (s.setLogic r).regionLog = s.regionLog := rfl
@[simp] theorem setLogic_reg (s : State) (r : Word) (q : Reg) : (s.setLogic r).reg q = s.reg q := rfl
@[simp] theorem setLogic_next (s : State) (r : Word) : (s.setLogic r).next = s.next := rfl
@[simp] theorem setLogic_dmByte (s : State) (r : Word) (q : Word) : (s.setLogic r).dmByte q = s.dmByte q := rfl
@[simp] theorem setLogic_dataByte (s : State) (r : Word) (x : RegionAccess) (q : Word) :
    (s.setLogic r).dataByte x q = s.dataByte x q := rfl

@[simp] theorem setShift_cfg (s : State) (c : Bool) :
    (s.setShift c).cfg = s.cfg := rfl
@[simp] theorem setShift_regs (s : State) (c : Bool) :
    (s.setShift c).regs = s.regs := rfl
@[simp] theorem setShift_sp (s : State) (c : Bool) :
    (s.setShift c).sp = s.sp := rfl
@[simp] theorem setShift_pc (s : State) (c : Bool) :
    (s.setShift c).pc = s.pc := rfl
@[simp] theorem setShift_sr (s : State) (c : Bool) :
    (s.setShift c).sr = ⟨s.sr.i, Config.freeBit s.free,
      Config.freeBit (s.free + 1), c, Config.freeBit (s.free + 2)⟩ := rfl
@[simp] theorem setShift_pfx (s : State) (c : Bool) :
    (s.setShift c).pfx = s.pfx := rfl
@[simp] theorem setShift_run (s : State) (c : Bool) :
    (s.setShift c).run = s.run := rfl
@[simp] theorem setShift_dm (s : State) (c : Bool) :
    (s.setShift c).dm = s.dm := rfl
@[simp] theorem setShift_pm (s : State) (c : Bool) :
    (s.setShift c).pm = s.pm := rfl
@[simp] theorem setShift_free (s : State) (c : Bool) :
    (s.setShift c).free = s.free + 3 := rfl
@[simp] theorem setShift_regionLog (s : State) (c : Bool) :
    (s.setShift c).regionLog = s.regionLog := rfl
@[simp] theorem setShift_reg (s : State) (c : Bool) (q : Reg) : (s.setShift c).reg q = s.reg q := rfl
@[simp] theorem setShift_next (s : State) (c : Bool) : (s.setShift c).next = s.next := rfl
@[simp] theorem setShift_dmByte (s : State) (c : Bool) (q : Word) : (s.setShift c).dmByte q = s.dmByte q := rfl
@[simp] theorem setShift_dataByte (s : State) (c : Bool) (x : RegionAccess) (q : Word) :
    (s.setShift c).dataByte x q = s.dataByte x q := rfl

@[simp] theorem setInterrupt_cfg (s : State) (b : Bool) :
    (s.setInterrupt b).cfg = s.cfg := rfl
@[simp] theorem setInterrupt_regs (s : State) (b : Bool) :
    (s.setInterrupt b).regs = s.regs := rfl
@[simp] theorem setInterrupt_sp (s : State) (b : Bool) :
    (s.setInterrupt b).sp = s.sp := rfl
@[simp] theorem setInterrupt_pc (s : State) (b : Bool) :
    (s.setInterrupt b).pc = s.pc := rfl
@[simp] theorem setInterrupt_sr (s : State) (b : Bool) :
    (s.setInterrupt b).sr = { s.sr with i := b } := rfl
@[simp] theorem setInterrupt_pfx (s : State) (b : Bool) :
    (s.setInterrupt b).pfx = s.pfx := rfl
@[simp] theorem setInterrupt_run (s : State) (b : Bool) :
    (s.setInterrupt b).run = s.run := rfl
@[simp] theorem setInterrupt_dm (s : State) (b : Bool) :
    (s.setInterrupt b).dm = s.dm := rfl
@[simp] theorem setInterrupt_pm (s : State) (b : Bool) :
    (s.setInterrupt b).pm = s.pm := rfl
@[simp] theorem setInterrupt_free (s : State) (b : Bool) :
    (s.setInterrupt b).free = s.free := rfl
@[simp] theorem setInterrupt_regionLog (s : State) (b : Bool) :
    (s.setInterrupt b).regionLog = s.regionLog := rfl
@[simp] theorem setInterrupt_reg (s : State) (b : Bool) (q : Reg) : (s.setInterrupt b).reg q = s.reg q := rfl
@[simp] theorem setInterrupt_next (s : State) (b : Bool) : (s.setInterrupt b).next = s.next := rfl
@[simp] theorem setInterrupt_dmByte (s : State) (b : Bool) (q : Word) : (s.setInterrupt b).dmByte q = s.dmByte q := rfl
@[simp] theorem setInterrupt_dataByte (s : State) (b : Bool) (x : RegionAccess) (q : Word) :
    (s.setInterrupt b).dataByte x q = s.dataByte x q := rfl

@[simp] theorem setByte_cfg (s : State) (a : Word) (b : Byte) :
    (s.setByte a b).cfg = s.cfg := rfl
@[simp] theorem setByte_regs (s : State) (a : Word) (b : Byte) :
    (s.setByte a b).regs = s.regs := rfl
@[simp] theorem setByte_sp (s : State) (a : Word) (b : Byte) :
    (s.setByte a b).sp = s.sp := rfl
@[simp] theorem setByte_pc (s : State) (a : Word) (b : Byte) :
    (s.setByte a b).pc = s.pc := rfl
@[simp] theorem setByte_sr (s : State) (a : Word) (b : Byte) :
    (s.setByte a b).sr = s.sr := rfl
@[simp] theorem setByte_pfx (s : State) (a : Word) (b : Byte) :
    (s.setByte a b).pfx = s.pfx := rfl
@[simp] theorem setByte_run (s : State) (a : Word) (b : Byte) :
    (s.setByte a b).run = s.run := rfl
@[simp] theorem setByte_dm (s : State) (a : Word) (b : Byte) :
    (s.setByte a b).dm = s.dm.write a.toNat b := rfl
@[simp] theorem setByte_pm (s : State) (a : Word) (b : Byte) :
    (s.setByte a b).pm = s.pm := rfl
@[simp] theorem setByte_free (s : State) (a : Word) (b : Byte) :
    (s.setByte a b).free = s.free := rfl
@[simp] theorem setByte_regionLog (s : State) (a : Word) (b : Byte) :
    (s.setByte a b).regionLog = s.regionLog := rfl
@[simp] theorem setByte_reg (s : State) (a : Word) (b : Byte) (q : Reg) : (s.setByte a b).reg q = s.reg q := rfl
@[simp] theorem setByte_next (s : State) (a : Word) (b : Byte) : (s.setByte a b).next = s.next := rfl

@[simp] theorem note_cfg (s : State) (l : List Word) (x : RegionAccess) :
    (s.note l x).cfg = s.cfg := rfl
@[simp] theorem note_regs (s : State) (l : List Word) (x : RegionAccess) :
    (s.note l x).regs = s.regs := rfl
@[simp] theorem note_sp (s : State) (l : List Word) (x : RegionAccess) :
    (s.note l x).sp = s.sp := rfl
@[simp] theorem note_pc (s : State) (l : List Word) (x : RegionAccess) :
    (s.note l x).pc = s.pc := rfl
@[simp] theorem note_sr (s : State) (l : List Word) (x : RegionAccess) :
    (s.note l x).sr = s.sr := rfl
@[simp] theorem note_pfx (s : State) (l : List Word) (x : RegionAccess) :
    (s.note l x).pfx = s.pfx := rfl
@[simp] theorem note_run (s : State) (l : List Word) (x : RegionAccess) :
    (s.note l x).run = s.run := rfl
@[simp] theorem note_dm (s : State) (l : List Word) (x : RegionAccess) :
    (s.note l x).dm = s.dm := rfl
@[simp] theorem note_pm (s : State) (l : List Word) (x : RegionAccess) :
    (s.note l x).pm = s.pm := rfl
@[simp] theorem note_free (s : State) (l : List Word) (x : RegionAccess) :
    (s.note l x).free = s.free := rfl
theorem note_regionLog (s : State) (l : List Word) (x : RegionAccess) :
    (s.note l x).regionLog =
      if l.any fun a => (regionOf s.cfg a).isSome then x :: s.regionLog else s.regionLog := rfl
@[simp] theorem note_reg (s : State) (l : List Word) (x : RegionAccess) (q : Reg) :
    (s.note l x).reg q = s.reg q := rfl
@[simp] theorem note_next (s : State) (l : List Word) (x : RegionAccess) :
    (s.note l x).next = s.next := rfl
@[simp] theorem note_dmByte (s : State) (l : List Word) (x : RegionAccess) (q : Word) :
    (s.note l x).dmByte q = s.dmByte q := rfl

@[simp] theorem jump_cfg (s : State) (t : Word) :
    (s.jump t).cfg = s.cfg := rfl
@[simp] theorem jump_regs (s : State) (t : Word) :
    (s.jump t).regs = s.regs := rfl
@[simp] theorem jump_sp (s : State) (t : Word) :
    (s.jump t).sp = s.sp := rfl
@[simp] theorem jump_pc (s : State) (t : Word) :
    (s.jump t).pc = t := rfl
@[simp] theorem jump_sr (s : State) (t : Word) :
    (s.jump t).sr = s.sr := rfl
@[simp] theorem jump_pfx (s : State) (t : Word) :
    (s.jump t).pfx = { s.pfx with valid := false } := rfl
@[simp] theorem jump_run (s : State) (t : Word) :
    (s.jump t).run = s.run := rfl
@[simp] theorem jump_dm (s : State) (t : Word) :
    (s.jump t).dm = s.dm := rfl
@[simp] theorem jump_pm (s : State) (t : Word) :
    (s.jump t).pm = s.pm := rfl
@[simp] theorem jump_free (s : State) (t : Word) :
    (s.jump t).free = s.free := rfl
@[simp] theorem jump_regionLog (s : State) (t : Word) :
    (s.jump t).regionLog = s.regionLog := rfl
@[simp] theorem jump_reg (s : State) (t : Word) (q : Reg) : (s.jump t).reg q = s.reg q := rfl
@[simp] theorem jump_dmByte (s : State) (t : Word) (q : Word) : (s.jump t).dmByte q = s.dmByte q := rfl
@[simp] theorem jump_dataByte (s : State) (t : Word) (x : RegionAccess) (q : Word) :
    (s.jump t).dataByte x q = s.dataByte x q := rfl

@[simp] theorem retire_cfg (s : State) :
    s.retire.cfg = s.cfg := rfl
@[simp] theorem retire_regs (s : State) :
    s.retire.regs = s.regs := rfl
@[simp] theorem retire_sp (s : State) :
    s.retire.sp = s.sp := rfl
@[simp] theorem retire_pc (s : State) :
    s.retire.pc = s.next := rfl
@[simp] theorem retire_sr (s : State) :
    s.retire.sr = s.sr := rfl
@[simp] theorem retire_pfx (s : State) :
    s.retire.pfx = { s.pfx with valid := false } := rfl
@[simp] theorem retire_run (s : State) :
    s.retire.run = s.run := rfl
@[simp] theorem retire_dm (s : State) :
    s.retire.dm = s.dm := rfl
@[simp] theorem retire_pm (s : State) :
    s.retire.pm = s.pm := rfl
@[simp] theorem retire_free (s : State) :
    s.retire.free = s.free := rfl
@[simp] theorem retire_regionLog (s : State) :
    s.retire.regionLog = s.regionLog := rfl
@[simp] theorem retire_reg (s : State) (q : Reg) : s.retire.reg q = s.reg q := rfl
@[simp] theorem retire_dmByte (s : State) (q : Word) : s.retire.dmByte q = s.dmByte q := rfl
@[simp] theorem retire_dataByte (s : State) (x : RegionAccess) (q : Word) :
    s.retire.dataByte x q = s.dataByte x q := rfl

/-- Two registers have the same place only when they are the same. -/
theorem regIndex_injective {q r : Reg} (h : regIndex q = regIndex r) : q = r := by
  cases q <;> cases r <;> first | rfl | exact absurd h (by decide)

@[simp] theorem setReg_regs (s : State) (r : Reg) (v : Word) :
    (s.setReg r v).regs = s.regs.set (regIndex r).val v (regIndex r).isLt := rfl

/-- Reading a register after writing one. -/
theorem setReg_reg (s : State) (r q : Reg) (v : Word) :
    (s.setReg r v).reg q = if q = r then v else s.reg q := by
  by_cases h : q = r
  · subst h
    simp [State.reg, State.setReg, Vector.get_eq_getElem]
  · have hne : (regIndex r).val ≠ (regIndex q).val := fun e =>
      h (regIndex_injective (Fin.ext e)).symm
    simp [State.reg, State.setReg, Vector.get_eq_getElem, hne, h]

@[simp] theorem setReg_reg_self (s : State) (r : Reg) (v : Word) : (s.setReg r v).reg r = v := by
  simp [setReg_reg]

theorem setReg_reg_other (s : State) {r q : Reg} (v : Word) (h : q ≠ r) :
    (s.setReg r v).reg q = s.reg q := by
  simp [setReg_reg, h]

end Sys2Proof.Machine
end

