-- ==== Sys2Proof/Laws/Ops.lean ====
section
/-! SUPPORT. What each shared operation can do, said once: if it answers a value or a next state, then
under which conditions and which one. -/

namespace Sys2Proof.Machine

/-! Ends and stops -/

@[simp] theorem stop_result_ne_next (e : Stop) (t : State) : e.result ≠ .next t := by
  cases e <;> simp [Stop.result]

/-- An operation followed by the rest completes exactly when both do. -/
theorem andThen_eq_next {α : Type} (x : Except Stop α) (k : α → Result) (t : State) :
    andThen x k = .next t ↔ ∃ v, x = .ok v ∧ k v = .next t := by
  cases x <;> simp [andThen]

@[simp] theorem andThen_ok {α : Type} (v : α) (k : α → Result) : andThen (.ok v) k = k v := rfl

@[simp] theorem andThen_error {α : Type} (e : Stop) (k : α → Result) :
    andThen (.error e) k = e.result := rfl

/-- Without a pending prefix the check changes nothing. -/
theorem unlessPrefixed_of_not (s : State) (k : Result) (h : s.pfx.valid = false) :
    s.unlessPrefixed k = k := by
  simp [State.unlessPrefixed, h]

/-- A pending prefix is refused. -/
theorem unlessPrefixed_of_valid (s : State) (k : Result) (h : s.pfx.valid = true) :
    s.unlessPrefixed k = .refused (.prefixMisuse s.pendingPrefixWord (s.pmWord s.pc)) := by
  simp [State.unlessPrefixed, h]

theorem unlessPrefixed_eq_next (s : State) (k : Result) (t : State) :
    s.unlessPrefixed k = .next t ↔ s.pfx.valid = false ∧ k = .next t := by
  cases h : s.pfx.valid <;> simp [State.unlessPrefixed, h]

/-! Immediates -/

theorem effImm_unprefixed (s : State) {n : Nat} (field : BitVec n) (ext : Ext)
    (h : s.pfx.valid = false) : s.effImm field ext = extend ext field := by
  simp [State.effImm, h]

theorem effImm_prefixed (s : State) {n : Nat} (field : BitVec n) (ext : Ext)
    (h : s.pfx.valid = true) :
    s.effImm field ext = s.pfx.imm.setWidth 16 <<< 5 ||| (field.setWidth 16 &&& 0x1F#16) := by
  simp [State.effImm, h]

/-! Bytes of a word -/

@[simp] theorem lowByte_wordOf (h l : Byte) : lowByte (wordOf h l) = l := by
  apply BitVec.eq_of_getLsbD_eq
  intro i hi
  interval_cases i <;> simp [lowByte, wordOf]

@[simp] theorem highByte_wordOf (h l : Byte) : highByte (wordOf h l) = h := by
  apply BitVec.eq_of_getLsbD_eq
  intro i hi
  interval_cases i <;> simp [highByte, wordOf, BitVec.getLsbD_of_ge]

@[simp] theorem wordOf_bytes (v : Word) : wordOf (highByte v) (lowByte v) = v := by
  apply BitVec.eq_of_getLsbD_eq
  intro i hi
  interval_cases i <;> simp [highByte, lowByte, wordOf]

@[simp] theorem joinBytes_split (e : Endian) (v : Word) :
    joinBytes e (firstByte e v) (secondByte e v) = v := by
  cases e <;> simp [joinBytes, firstByte, secondByte]

/-! Alignment -/

/-- An even address is its own base under every policy. -/
theorem wordBase_of_even (c : Config) (a : Word) (h : a.getLsbD 0 = false) :
    wordBase c a = some a := by
  rw [wordBase, h]; rfl

/-- An odd address has no base where `MISALIGNED` is `fault`. -/
theorem wordBase_of_odd (c : Config) (a : Word) (h : a.getLsbD 0 = true)
    (hc : c.misaligned = .fault) : wordBase c a = none := by
  rw [wordBase, h, hc]; rfl

/-! Data memory -/

theorem word_ne_succ (a : Word) : a ≠ a + 1 := by
  intro h
  have := congrArg BitVec.toNat h
  simp only [BitVec.toNat_add] at this
  have ha := a.isLt
  change a.toNat = (a.toNat + 1) % 65536 at this
  omega

theorem setByte_dmByte (s : State) (a q : Word) (b : Byte) :
    (s.setByte a b).dmByte q = if q = a then b else s.dmByte q := by
  simp only [State.dmByte, setByte_dm, memory_read_write, BitVec.toNat_inj]
  split <;> simp

/-- No region holds an address exactly when every listed one misses it. -/
theorem regionOf_eq_none (c : Config) (a : Word) :
    regionOf c a = none ↔
      ∀ g ∈ c.memMap, ¬(g.base ≤ a.toNat ∧ a.toNat < g.base + g.size) := by
  simp [regionOf]

/-- The first listed region that holds an address is the one an access there meets. -/
theorem regionOf_first (c : Config) (a : Word) {before after : List Region} {g : Region}
    (hc : c.memMap = before ++ g :: after)
    (hb : ∀ h ∈ before, ¬(h.base ≤ a.toNat ∧ a.toNat < h.base + h.size))
    (hg : g.base ≤ a.toNat ∧ a.toNat < g.base + g.size) : regionOf c a = some g := by
  have hn : before.find? (fun h => decide (h.base ≤ a.toNat) &&
      decide (a.toNat < h.base + h.size)) = none := by
    simpa using hb
  simp [regionOf, hc, List.find?_append, hn, hg.1, hg.2]

/-- An address in no region reads from DM. -/
theorem dataByte_of_no_region (s : State) (x : RegionAccess) (a : Word)
    (h : regionOf s.cfg a = none) : s.dataByte x a = s.dmByte a := by
  simp [State.dataByte, h]

/-- An address in a region reads what the region's own definition answers. -/
theorem dataByte_of_region (s : State) (x : RegionAccess) (a : Word) {g : Region}
    (h : regionOf s.cfg a = some g) :
    s.dataByte x a = Config.regionByte g (x :: s.regionLog) a := by
  simp [State.dataByte, h]

/-- An access to bytes in no region leaves no trace. -/
theorem note_of_no_region (s : State) (l : List Word) (x : RegionAccess)
    (h : ∀ a ∈ l, regionOf s.cfg a = none) : s.note l x = s := by
  have hl : (l.any fun a => (regionOf s.cfg a).isSome) = false := by
    simpa using h
  simp [State.note, hl]

theorem readByte_eq_ok (s : State) (a : Word) (r : Byte × State) :
    s.readByte a = .ok r ↔
      dataStop s.cfg a = none ∧ r = (s.dataByte (.readByte a) a, s.note [a] (.readByte a)) := by
  cases h : dataStop s.cfg a <;> simp [State.readByte, h, eq_comm]

theorem readWord_eq_ok (s : State) (a : Word) (r : Word × State) :
    s.readWord a = .ok r ↔
      ∃ b, wordBase s.cfg a = some b ∧ wordStop s.cfg b = none ∧
        r = (joinBytes s.cfg.endian (s.dataByte (.readWord b) b) (s.dataByte (.readWord b) (b + 1)),
          s.note [b, b + 1] (.readWord b)) := by
  cases h : wordBase s.cfg a with
  | none => simp [State.readWord, h]
  | some b => cases h' : wordStop s.cfg b <;> simp [State.readWord, h, h', eq_comm]

theorem writeByte_eq_ok (s : State) (a v : Word) (t : State) :
    s.writeByte a v = .ok t ↔
      dataStop s.cfg a = none ∧
        t = (s.setByte a (lowByte v)).note [a] (.writeByte a (lowByte v)) := by
  cases h : dataStop s.cfg a <;> simp [State.writeByte, h, eq_comm]

theorem writeWord_eq_ok (s : State) (a v : Word) (t : State) :
    s.writeWord a v = .ok t ↔
      ∃ b, wordBase s.cfg a = some b ∧ wordStop s.cfg b = none ∧
        t = ((s.setByte b (firstByte s.cfg.endian v)).setByte (b + 1)
              (secondByte s.cfg.endian v)).note [b, b + 1] (.writeWord b v) := by
  cases h : wordBase s.cfg a with
  | none => simp [State.writeWord, h]
  | some b => cases h' : wordStop s.cfg b <;> simp [State.writeWord, h, h', eq_comm]

/-- A word access that may not be made stops with the fault R42 names. -/
theorem readWord_misaligned (s : State) (a : Word) (h : wordBase s.cfg a = none) :
    s.readWord a = .error (.fault (.misaligned a)) := by
  simp [State.readWord, h]

theorem writeWord_misaligned (s : State) (a v : Word) (h : wordBase s.cfg a = none) :
    s.writeWord a v = .error (.fault (.misaligned a)) := by
  simp [State.writeWord, h]

/-! Whole instructions over memory -/

theorem loadWord_eq_next (s : State) (ea : Word) (rd : Reg) (t : State) :
    s.loadWord ea rd = .next t ↔
      ∃ r, s.readWord ea = .ok r ∧ (r.2.setReg rd r.1).retire = t := by
  simp [State.loadWord, andThen_eq_next]

theorem loadByte_eq_next (s : State) (ea : Word) (ext : Ext) (rd : Reg) (t : State) :
    s.loadByte ea ext rd = .next t ↔
      ∃ r, s.readByte ea = .ok r ∧ (r.2.setReg rd (extend ext r.1)).retire = t := by
  simp [State.loadByte, andThen_eq_next]

theorem storeWord_eq_next (s : State) (ea v : Word) (t : State) :
    s.storeWord ea v = .next t ↔ ∃ u, s.writeWord ea v = .ok u ∧ u.retire = t := by
  simp [State.storeWord, andThen_eq_next]

theorem storeByte_eq_next (s : State) (ea v : Word) (t : State) :
    s.storeByte ea v = .next t ↔ ∃ u, s.writeByte ea v = .ok u ∧ u.retire = t := by
  simp [State.storeByte, andThen_eq_next]

theorem pushWord_eq_ok (s : State) (v : Word) (t : State) :
    s.pushWord v = .ok t ↔
      ∃ b, wordBase s.cfg s.pushAddr = some b ∧ wordStop s.cfg b = none ∧
        t = (((s.setSp s.pushAddr).setByte b (firstByte s.cfg.endian v)).setByte (b + 1)
              (secondByte s.cfg.endian v)).note [b, b + 1] (.writeWord b v) := by
  simp [State.pushWord, writeWord_eq_ok]

theorem callTo_eq_next (s : State) (target : Word) (t : State) :
    s.callTo target = .next t ↔ ∃ u, s.pushWord s.next = .ok u ∧ u.jump target = t := by
  simp [State.callTo, andThen_eq_next]

/-! Program memory and the step -/

theorem pmRead_eq_ok (s : State) (a v : Word) :
    s.pmRead a = .ok v ↔ a.toNat < s.cfg.pmWords ∧ v = s.pmWord a := by
  by_cases h : a.toNat < s.cfg.pmWords <;> simp [State.pmRead, h, eq_comm]

/-- What a step that answers a next state did: nothing in a halted machine, else the execution of
the instruction at PC. -/
theorem step_eq_next (s t : State) :
    step s = .next t ↔
      (s.run = .halted ∧ t = s) ∨
      (s.run = .running ∧ s.pc.toNat < s.cfg.pmWords ∧
        ∃ i, decode (s.pmWord s.pc) = .ok i ∧ exec i s = .next t) := by
  cases hr : s.run with
  | halted => simp [step, hr, eq_comm]
  | running =>
    simp only [step, hr, andThen_eq_next, State.fetch, pmRead_eq_ok]
    constructor
    · rintro ⟨w, ⟨hp, rfl⟩, hk⟩
      split at hk
      · exact .inr ⟨trivial, hp, _, ‹_›, hk⟩
      · simp at hk
    · rintro (⟨h, -⟩ | ⟨-, hp, i, hd, he⟩)
      · cases h
      · exact ⟨_, ⟨hp, rfl⟩, by rw [hd]; exact he⟩

end Sys2Proof.Machine
end

