-- ==== Sys2Proof/Laws/PerInstr.lean ====
section
/-! SUPPORT. Lemmas about instructions as syntax, one per constructor of Instr: the word an
instruction encodes to carries the fixed bits of its row (spec/30_encoding.md R66). -/

namespace Sys2Proof.Laws

theorem formatP_fixed (op : BitVec 5) (imm : BitVec 11) :
    formatP op imm &&& 0xF800#16 = op.setWidth 16 <<< 11 := by
  apply BitVec.eq_of_getLsbD_eq
  intro i hi
  interval_cases i <;> simp [formatP, BitVec.getLsbD_of_ge]

theorem formatI1_fixed (op k : BitVec 5) (rs rd : BitVec 3) :
    formatI1 op k rs rd &&& 0xF800#16 = op.setWidth 16 <<< 11 := by
  apply BitVec.eq_of_getLsbD_eq
  intro i hi
  interval_cases i <;> simp [formatI1, BitVec.getLsbD_of_ge]

theorem formatI2_fixed (op : BitVec 5) (k : BitVec 8) (rd : BitVec 3) :
    formatI2 op k rd &&& 0xF800#16 = op.setWidth 16 <<< 11 := by
  apply BitVec.eq_of_getLsbD_eq
  intro i hi
  interval_cases i <;> simp [formatI2, BitVec.getLsbD_of_ge]

theorem formatBranch_fixed (cc : BitVec 3) (a : BitVec 9) :
    formatBranch cc a &&& 0xF000#16 = 0x4000#16 := by
  apply BitVec.eq_of_getLsbD_eq
  intro i hi
  interval_cases i <;> simp [formatBranch, BitVec.getLsbD_of_ge]

theorem formatJ_fixed (op : BitVec 7) (a : BitVec 9) :
    formatJ op a &&& 0xFE00#16 = op.setWidth 16 <<< 9 := by
  apply BitVec.eq_of_getLsbD_eq
  intro i hi
  interval_cases i <;> simp [formatJ, BitVec.getLsbD_of_ge]

theorem formatR1_fixed (op : BitVec 7) (rn rs rd : BitVec 3) :
    formatR1 op rn rs rd &&& 0xFE00#16 = op.setWidth 16 <<< 9 := by
  apply BitVec.eq_of_getLsbD_eq
  intro i hi
  interval_cases i <;> simp [formatR1, BitVec.getLsbD_of_ge]

theorem formatSelect_fixed (cc rn rs rd : BitVec 3) :
    formatSelect cc rn rs rd &&& 0xF000#16 = 0x1000#16 := by
  apply BitVec.eq_of_getLsbD_eq
  intro i hi
  interval_cases i <;> simp [formatSelect, BitVec.getLsbD_of_ge]

theorem formatSet_fixed (cc : BitVec 3) (x : BitVec 4) (rd : BitVec 3) :
    formatSet cc x rd &&& 0xF180#16 = 0x0180#16 := by
  apply BitVec.eq_of_getLsbD_eq
  intro i hi
  interval_cases i <;> simp [formatSet, BitVec.getLsbD_of_ge]

theorem formatR2_fixed (op : BitVec 10) (rs rd : BitVec 3) :
    formatR2 op rs rd &&& 0xFFC0#16 = op.setWidth 16 <<< 6 := by
  apply BitVec.eq_of_getLsbD_eq
  intro i hi
  interval_cases i <;> simp [formatR2, BitVec.getLsbD_of_ge]

theorem formatR2Zero_fixed (op : BitVec 10) (x : BitVec 6) :
    formatR2Zero op x &&& 0xFFC0#16 = op.setWidth 16 <<< 6 := by
  apply BitVec.eq_of_getLsbD_eq
  intro i hi
  interval_cases i <;> simp [formatR2Zero, BitVec.getLsbD_of_ge]

theorem formatReserved_fixed (opH : BitVec 3) (x : BitVec 7) :
    formatReserved opH x &&& 0xF180#16 = 0x0100#16 := by
  apply BitVec.eq_of_getLsbD_eq
  intro i hi
  interval_cases i <;> simp [formatReserved, BitVec.getLsbD_of_ge]

/-- The fixed bits of an instruction's word are those of its row. -/
def FixedBits.Statement (i : Instr) : Prop :=
  encode i &&& i.opcodeRow.mask = i.opcodeRow.pattern

theorem FixedBits.pfix_k (k : BitVec 11) : FixedBits.Statement (.pfix_k k) :=
  formatP_fixed _ _

theorem FixedBits.call (a : BitVec 11) : FixedBits.Statement (.call a) :=
  formatP_fixed _ _

theorem FixedBits.lea_mr (rs : Reg) (k : BitVec 5) (rd : Reg) : FixedBits.Statement (.lea_mr rs k rd) :=
  formatI1_fixed _ _ _ _

theorem FixedBits.movw_mr (rs : Reg) (k : BitVec 5) (rd : Reg) : FixedBits.Statement (.movw_mr rs k rd) :=
  formatI1_fixed _ _ _ _

theorem FixedBits.movzb_mr (rs : Reg) (k : BitVec 5) (rd : Reg) : FixedBits.Statement (.movzb_mr rs k rd) :=
  formatI1_fixed _ _ _ _

theorem FixedBits.movsb_mr (rs : Reg) (k : BitVec 5) (rd : Reg) : FixedBits.Statement (.movsb_mr rs k rd) :=
  formatI1_fixed _ _ _ _

theorem FixedBits.movw_rm (rd : Reg) (rs : Reg) (k : BitVec 5) : FixedBits.Statement (.movw_rm rd rs k) :=
  formatI1_fixed _ _ _ _

theorem FixedBits.movb_rm (rd : Reg) (rs : Reg) (k : BitVec 5) : FixedBits.Statement (.movb_rm rd rs k) :=
  formatI1_fixed _ _ _ _

theorem FixedBits.mov_kr (k : BitVec 8) (rd : Reg) : FixedBits.Statement (.mov_kr k rd) :=
  formatI2_fixed _ _ _

theorem FixedBits.cmp_rk (rd : Reg) (k : BitVec 8) : FixedBits.Statement (.cmp_rk rd k) :=
  formatI2_fixed _ _ _

theorem FixedBits.add_kr (rd : Reg) (k : BitVec 8) : FixedBits.Statement (.add_kr rd k) :=
  formatI2_fixed _ _ _

theorem FixedBits.sub_kr (rd : Reg) (k : BitVec 8) : FixedBits.Statement (.sub_kr rd k) :=
  formatI2_fixed _ _ _

theorem FixedBits.and_kr (rd : Reg) (k : BitVec 8) : FixedBits.Statement (.and_kr rd k) :=
  formatI2_fixed _ _ _

theorem FixedBits.movw_ar (a : BitVec 8) (rd : Reg) : FixedBits.Statement (.movw_ar a rd) :=
  formatI2_fixed _ _ _

theorem FixedBits.movsb_ar (a : BitVec 8) (rd : Reg) : FixedBits.Statement (.movsb_ar a rd) :=
  formatI2_fixed _ _ _

theorem FixedBits.movw_ra (rd : Reg) (a : BitVec 8) : FixedBits.Statement (.movw_ra rd a) :=
  formatI2_fixed _ _ _

theorem FixedBits.movb_ra (rd : Reg) (a : BitVec 8) : FixedBits.Statement (.movb_ra rd a) :=
  formatI2_fixed _ _ _

theorem FixedBits.lea_qr (k : BitVec 8) (rd : Reg) : FixedBits.Statement (.lea_qr k rd) :=
  formatI2_fixed _ _ _

theorem FixedBits.movw_qr (k : BitVec 8) (rd : Reg) : FixedBits.Statement (.movw_qr k rd) :=
  formatI2_fixed _ _ _

theorem FixedBits.movsb_qr (k : BitVec 8) (rd : Reg) : FixedBits.Statement (.movsb_qr k rd) :=
  formatI2_fixed _ _ _

theorem FixedBits.movw_rq (rd : Reg) (k : BitVec 8) : FixedBits.Statement (.movw_rq rd k) :=
  formatI2_fixed _ _ _

theorem FixedBits.movb_rq (rd : Reg) (k : BitVec 8) : FixedBits.Statement (.movb_rq rd k) :=
  formatI2_fixed _ _ _

theorem FixedBits.br_ck (cc : Cond) (a : BitVec 9) : FixedBits.Statement (.br_ck cc a) :=
  formatBranch_fixed _ _

theorem FixedBits.add_kq (k : BitVec 9) : FixedBits.Statement (.add_kq k) :=
  formatJ_fixed _ _

theorem FixedBits.jmp_k (a : BitVec 9) : FixedBits.Statement (.jmp_k a) :=
  formatJ_fixed _ _

theorem FixedBits.cmp_rr (rs : Reg) (rn : Reg) : FixedBits.Statement (.cmp_rr rs rn) :=
  formatR1_fixed _ _ _ _

theorem FixedBits.cmpc_rr (rs : Reg) (rn : Reg) : FixedBits.Statement (.cmpc_rr rs rn) :=
  formatR1_fixed _ _ _ _

theorem FixedBits.sub_rrr (rs : Reg) (rn : Reg) (rd : Reg) : FixedBits.Statement (.sub_rrr rs rn rd) :=
  formatR1_fixed _ _ _ _

theorem FixedBits.subc_rrr (rs : Reg) (rn : Reg) (rd : Reg) : FixedBits.Statement (.subc_rrr rs rn rd) :=
  formatR1_fixed _ _ _ _

theorem FixedBits.or_rrr (rs : Reg) (rn : Reg) (rd : Reg) : FixedBits.Statement (.or_rrr rs rn rd) :=
  formatR1_fixed _ _ _ _

theorem FixedBits.and_rrr (rs : Reg) (rn : Reg) (rd : Reg) : FixedBits.Statement (.and_rrr rs rn rd) :=
  formatR1_fixed _ _ _ _

theorem FixedBits.xor_rrr (rs : Reg) (rn : Reg) (rd : Reg) : FixedBits.Statement (.xor_rrr rs rn rd) :=
  formatR1_fixed _ _ _ _

theorem FixedBits.adc_rrr (rs : Reg) (rn : Reg) (rd : Reg) : FixedBits.Statement (.adc_rrr rs rn rd) :=
  formatR1_fixed _ _ _ _

theorem FixedBits.add_rrr (rs : Reg) (rn : Reg) (rd : Reg) : FixedBits.Statement (.add_rrr rs rn rd) :=
  formatR1_fixed _ _ _ _

theorem FixedBits.movw_nr (rs : Reg) (rn : Reg) (rd : Reg) : FixedBits.Statement (.movw_nr rs rn rd) :=
  formatR1_fixed _ _ _ _

theorem FixedBits.movzb_nr (rs : Reg) (rn : Reg) (rd : Reg) : FixedBits.Statement (.movzb_nr rs rn rd) :=
  formatR1_fixed _ _ _ _

theorem FixedBits.movsb_nr (rs : Reg) (rn : Reg) (rd : Reg) : FixedBits.Statement (.movsb_nr rs rn rd) :=
  formatR1_fixed _ _ _ _

theorem FixedBits.movw_rn (rd : Reg) (rs : Reg) (rn : Reg) : FixedBits.Statement (.movw_rn rd rs rn) :=
  formatR1_fixed _ _ _ _

theorem FixedBits.movb_rn (rd : Reg) (rs : Reg) (rn : Reg) : FixedBits.Statement (.movb_rn rd rs rn) :=
  formatR1_fixed _ _ _ _

theorem FixedBits.sel_crrr (cc : Cond) (rs : Reg) (rn : Reg) (rd : Reg) : FixedBits.Statement (.sel_crrr cc rs rn rd) :=
  formatSelect_fixed _ _ _ _

theorem FixedBits.set_cr (cc : Cond) (rd : Reg) : FixedBits.Statement (.set_cr cc rd) :=
  formatSet_fixed _ _ _

theorem FixedBits.mov_rr (rs : Reg) (rd : Reg) : FixedBits.Statement (.mov_rr rs rd) :=
  formatR2_fixed _ _ _

theorem FixedBits.mov_rq (rs : Reg) : FixedBits.Statement (.mov_rq rs) :=
  formatR2_fixed _ _ _

theorem FixedBits.zext_rr (rs : Reg) (rd : Reg) : FixedBits.Statement (.zext_rr rs rd) :=
  formatR2_fixed _ _ _

theorem FixedBits.sext_rr (rs : Reg) (rd : Reg) : FixedBits.Statement (.sext_rr rs rd) :=
  formatR2_fixed _ _ _

theorem FixedBits.bswap_rr (rs : Reg) (rd : Reg) : FixedBits.Statement (.bswap_rr rs rd) :=
  formatR2_fixed _ _ _

theorem FixedBits.sextw_rr (rs : Reg) (rd : Reg) : FixedBits.Statement (.sextw_rr rs rd) :=
  formatR2_fixed _ _ _

theorem FixedBits.reserved_110_000 (x : BitVec 6) : FixedBits.Statement (.reserved_110_000 x) :=
  formatR2Zero_fixed _ _

theorem FixedBits.movw_pr (rs : Reg) (rd : Reg) : FixedBits.Statement (.movw_pr rs rd) :=
  formatR2_fixed _ _ _

theorem FixedBits.lsr_rr (rs : Reg) (rd : Reg) : FixedBits.Statement (.lsr_rr rs rd) :=
  formatR2_fixed _ _ _

theorem FixedBits.lsrc_rr (rs : Reg) (rd : Reg) : FixedBits.Statement (.lsrc_rr rs rd) :=
  formatR2_fixed _ _ _

theorem FixedBits.asr_rr (rs : Reg) (rd : Reg) : FixedBits.Statement (.asr_rr rs rd) :=
  formatR2_fixed _ _ _

theorem FixedBits.reserved_011_001 (x : BitVec 6) : FixedBits.Statement (.reserved_011_001 x) :=
  formatR2Zero_fixed _ _

theorem FixedBits.reserved_100_001 (x : BitVec 6) : FixedBits.Statement (.reserved_100_001 x) :=
  formatR2Zero_fixed _ _

theorem FixedBits.neg_rr (rs : Reg) (rd : Reg) : FixedBits.Statement (.neg_rr rs rd) :=
  formatR2_fixed _ _ _

theorem FixedBits.not_rr (rs : Reg) (rd : Reg) : FixedBits.Statement (.not_rr rs rd) :=
  formatR2_fixed _ _ _

theorem FixedBits.reserved_111_001 (x : BitVec 6) : FixedBits.Statement (.reserved_111_001 x) :=
  formatR2Zero_fixed _ _

theorem FixedBits.jmp_r (rd : Reg) : FixedBits.Statement (.jmp_r rd) :=
  formatR2_fixed _ _ _

theorem FixedBits.call_r (rd : Reg) : FixedBits.Statement (.call_r rd) :=
  formatR2_fixed _ _ _

theorem FixedBits.push_r (rd : Reg) : FixedBits.Statement (.push_r rd) :=
  formatR2_fixed _ _ _

theorem FixedBits.pop_r (rd : Reg) : FixedBits.Statement (.pop_r rd) :=
  formatR2_fixed _ _ _

theorem FixedBits.reserved_100_010 (x : BitVec 6) : FixedBits.Statement (.reserved_100_010 x) :=
  formatR2Zero_fixed _ _

theorem FixedBits.reserved_101_010 (x : BitVec 6) : FixedBits.Statement (.reserved_101_010 x) :=
  formatR2Zero_fixed _ _

theorem FixedBits.mov_sr (x : BitVec 3) (rd : Reg) : FixedBits.Statement (.mov_sr x rd) :=
  formatR2_fixed _ _ _

theorem FixedBits.mov_rs (x : BitVec 3) (rd : Reg) : FixedBits.Statement (.mov_rs x rd) :=
  formatR2_fixed _ _ _

theorem FixedBits.ret : FixedBits.Statement (.ret) :=
  formatR2Zero_fixed _ _

theorem FixedBits.reti : FixedBits.Statement (.reti) :=
  formatR2Zero_fixed _ _

theorem FixedBits.dint : FixedBits.Statement (.dint) :=
  formatR2Zero_fixed _ _

theorem FixedBits.eint : FixedBits.Statement (.eint) :=
  formatR2Zero_fixed _ _

theorem FixedBits.halt : FixedBits.Statement (.halt) :=
  formatR2Zero_fixed _ _

theorem FixedBits.reserved_101_011 (x : BitVec 6) : FixedBits.Statement (.reserved_101_011 x) :=
  formatR2Zero_fixed _ _

theorem FixedBits.reserved_110_011 (x : BitVec 6) : FixedBits.Statement (.reserved_110_011 x) :=
  formatR2Zero_fixed _ _

theorem FixedBits.reserved_111_011 (x : BitVec 6) : FixedBits.Statement (.reserved_111_011 x) :=
  formatR2Zero_fixed _ _

theorem FixedBits.reserved_xxx_10x (opH : BitVec 3) (x : BitVec 7) : FixedBits.Statement (.reserved_xxx_10x opH x) :=
  formatReserved_fixed _ _

end Sys2Proof.Laws
end

