-- ==== Sys2Proof/Tests/Slice0.lean ====
section
/-! SUPPORT. The model's own tests: well-formedness, decoding, one step each for every instruction,
the stops, and a witness for every obligation with hypotheses. Expected results come from
spec/95_test_vectors.md, the worked examples of files 40 to 45, and the patterns of
spec/30_encoding.md R66. -/

namespace Sys2Proof.Tests

open Sys2Proof Sys2Proof.Machine Sys2Proof.Claims

/-! ## Well-formedness refuses each kind of ill-formed term -/

theorem test_wellFormed_accepts : Instr.WellFormed (.add_rrr .r1 .r2 .r3) := by decide
theorem test_wellFormed_refuses_reserved : ¬Instr.WellFormed (.reserved_xxx_10x 0 0) := by decide
theorem test_wellFormed_refuses_mov_sr : ¬Instr.WellFormed (.mov_sr 0 .r0) := by decide
theorem test_wellFormed_refuses_mov_rs : ¬Instr.WellFormed (.mov_rs 0 .r0) := by decide
theorem test_wellFormedPair_accepts : Instr.WellFormedPair (.pfix_k 1) (.mov_kr 1 .r0) := by decide
theorem test_wellFormedPair_refuses_two_prefixes :
    ¬Instr.WellFormedPair (.pfix_k 1) (.pfix_k 1) := by decide
theorem test_wellFormedPair_refuses_no_immediate :
    ¬Instr.WellFormedPair (.pfix_k 1) (.add_rrr .r1 .r2 .r3) := by decide

/-! ## Decoding: the word of every row of R66, written from its pattern

Fields hold 10110... (immediates), Rn = 5, Rs = 1, Rd = 6, cc = 3; unused bits of implemented
instructions are 1. -/

theorem test_decode_pfix_k : decode 0b1111110110100110#16 = .ok (.pfix_k 0b10110100110#11) := by rfl
theorem test_decode_call : decode 0b1111010110100110#16 = .ok (.call 0b10110100110#11) := by rfl
theorem test_decode_lea_mr :
    decode 0b1100010110001110#16 = .ok (.lea_mr .r1 0b10110#5 .r6) := by rfl
theorem test_decode_movw_mr :
    decode 0b1100110110001110#16 = .ok (.movw_mr .r1 0b10110#5 .r6) := by rfl
theorem test_decode_movzb_mr :
    decode 0b1101010110001110#16 = .ok (.movzb_mr .r1 0b10110#5 .r6) := by rfl
theorem test_decode_movsb_mr :
    decode 0b1101110110001110#16 = .ok (.movsb_mr .r1 0b10110#5 .r6) := by rfl
theorem test_decode_movw_rm :
    decode 0b1110010110001110#16 = .ok (.movw_rm .r6 .r1 0b10110#5) := by rfl
theorem test_decode_movb_rm :
    decode 0b1110110110001110#16 = .ok (.movb_rm .r6 .r1 0b10110#5) := by rfl
theorem test_decode_mov_kr : decode 0b0101010110100110#16 = .ok (.mov_kr 0b10110100#8 .r6) := by rfl
theorem test_decode_cmp_rk : decode 0b0101110110100110#16 = .ok (.cmp_rk .r6 0b10110100#8) := by rfl
theorem test_decode_add_kr : decode 0b0110010110100110#16 = .ok (.add_kr .r6 0b10110100#8) := by rfl
theorem test_decode_sub_kr : decode 0b0110110110100110#16 = .ok (.sub_kr .r6 0b10110100#8) := by rfl
theorem test_decode_and_kr : decode 0b0111010110100110#16 = .ok (.and_kr .r6 0b10110100#8) := by rfl
theorem test_decode_movw_ar :
    decode 0b0111110110100110#16 = .ok (.movw_ar 0b10110100#8 .r6) := by rfl
theorem test_decode_movsb_ar :
    decode 0b1000010110100110#16 = .ok (.movsb_ar 0b10110100#8 .r6) := by rfl
theorem test_decode_movw_ra :
    decode 0b1000110110100110#16 = .ok (.movw_ra .r6 0b10110100#8) := by rfl
theorem test_decode_movb_ra :
    decode 0b1001010110100110#16 = .ok (.movb_ra .r6 0b10110100#8) := by rfl
theorem test_decode_lea_qr : decode 0b1001110110100110#16 = .ok (.lea_qr 0b10110100#8 .r6) := by rfl
theorem test_decode_movw_qr :
    decode 0b1010010110100110#16 = .ok (.movw_qr 0b10110100#8 .r6) := by rfl
theorem test_decode_movsb_qr :
    decode 0b1010110110100110#16 = .ok (.movsb_qr 0b10110100#8 .r6) := by rfl
theorem test_decode_movw_rq :
    decode 0b1011010110100110#16 = .ok (.movw_rq .r6 0b10110100#8) := by rfl
theorem test_decode_movb_rq :
    decode 0b1011110110100110#16 = .ok (.movb_rq .r6 0b10110100#8) := by rfl
theorem test_decode_br_ck : decode 0b0100011101101001#16 = .ok (.br_ck .ult 0b101101001#9) := by rfl
theorem test_decode_add_kq : decode 0b0011110101101001#16 = .ok (.add_kq 0b101101001#9) := by rfl
theorem test_decode_jmp_k : decode 0b0011111101101001#16 = .ok (.jmp_k 0b101101001#9) := by rfl
theorem test_decode_cmp_rr : decode 0b0010000101001111#16 = .ok (.cmp_rr .r1 .r5) := by rfl
theorem test_decode_cmpc_rr : decode 0b0010001101001111#16 = .ok (.cmpc_rr .r1 .r5) := by rfl
theorem test_decode_sub_rrr : decode 0b0010010101001110#16 = .ok (.sub_rrr .r1 .r5 .r6) := by rfl
theorem test_decode_subc_rrr : decode 0b0010011101001110#16 = .ok (.subc_rrr .r1 .r5 .r6) := by rfl
theorem test_decode_or_rrr : decode 0b0010100101001110#16 = .ok (.or_rrr .r1 .r5 .r6) := by rfl
theorem test_decode_and_rrr : decode 0b0010101101001110#16 = .ok (.and_rrr .r1 .r5 .r6) := by rfl
theorem test_decode_xor_rrr : decode 0b0010110101001110#16 = .ok (.xor_rrr .r1 .r5 .r6) := by rfl
theorem test_decode_adc_rrr : decode 0b0010111101001110#16 = .ok (.adc_rrr .r1 .r5 .r6) := by rfl
theorem test_decode_add_rrr : decode 0b0011000101001110#16 = .ok (.add_rrr .r1 .r5 .r6) := by rfl
theorem test_decode_movw_nr : decode 0b0011001101001110#16 = .ok (.movw_nr .r1 .r5 .r6) := by rfl
theorem test_decode_movzb_nr : decode 0b0011010101001110#16 = .ok (.movzb_nr .r1 .r5 .r6) := by rfl
theorem test_decode_movsb_nr : decode 0b0011011101001110#16 = .ok (.movsb_nr .r1 .r5 .r6) := by rfl
theorem test_decode_movw_rn : decode 0b0011100101001110#16 = .ok (.movw_rn .r6 .r1 .r5) := by rfl
theorem test_decode_movb_rn : decode 0b0011101101001110#16 = .ok (.movb_rn .r6 .r1 .r5) := by rfl
theorem test_decode_sel_crrr :
    decode 0b0001011101001110#16 = .ok (.sel_crrr .ult .r1 .r5 .r6) := by rfl
theorem test_decode_set_cr : decode 0b0000011111111110#16 = .ok (.set_cr .ult .r6) := by rfl
theorem test_decode_mov_rr : decode 0b0000000000001110#16 = .ok (.mov_rr .r1 .r6) := by rfl
theorem test_decode_mov_rq : decode 0b0000001000001111#16 = .ok (.mov_rq .r1) := by rfl
theorem test_decode_zext_rr : decode 0b0000010000001110#16 = .ok (.zext_rr .r1 .r6) := by rfl
theorem test_decode_sext_rr : decode 0b0000011000001110#16 = .ok (.sext_rr .r1 .r6) := by rfl
theorem test_decode_bswap_rr : decode 0b0000100000001110#16 = .ok (.bswap_rr .r1 .r6) := by rfl
theorem test_decode_sextw_rr : decode 0b0000101000001110#16 = .ok (.sextw_rr .r1 .r6) := by rfl
theorem test_decode_reserved_110_000 :
    decode 0b0000110000101101#16 = .ok (.reserved_110_000 0b101101#6) := by rfl
theorem test_decode_movw_pr : decode 0b0000111000001110#16 = .ok (.movw_pr .r1 .r6) := by rfl
theorem test_decode_lsr_rr : decode 0b0000000001001110#16 = .ok (.lsr_rr .r1 .r6) := by rfl
theorem test_decode_lsrc_rr : decode 0b0000001001001110#16 = .ok (.lsrc_rr .r1 .r6) := by rfl
theorem test_decode_asr_rr : decode 0b0000010001001110#16 = .ok (.asr_rr .r1 .r6) := by rfl
theorem test_decode_reserved_011_001 :
    decode 0b0000011001101101#16 = .ok (.reserved_011_001 0b101101#6) := by rfl
theorem test_decode_reserved_100_001 :
    decode 0b0000100001101101#16 = .ok (.reserved_100_001 0b101101#6) := by rfl
theorem test_decode_neg_rr : decode 0b0000101001001110#16 = .ok (.neg_rr .r1 .r6) := by rfl
theorem test_decode_not_rr : decode 0b0000110001001110#16 = .ok (.not_rr .r1 .r6) := by rfl
theorem test_decode_reserved_111_001 :
    decode 0b0000111001101101#16 = .ok (.reserved_111_001 0b101101#6) := by rfl
theorem test_decode_jmp_r : decode 0b0000000010111110#16 = .ok (.jmp_r .r6) := by rfl
theorem test_decode_call_r : decode 0b0000001010111110#16 = .ok (.call_r .r6) := by rfl
theorem test_decode_push_r : decode 0b0000010010111110#16 = .ok (.push_r .r6) := by rfl
theorem test_decode_pop_r : decode 0b0000011010111110#16 = .ok (.pop_r .r6) := by rfl
theorem test_decode_reserved_100_010 :
    decode 0b0000100010101101#16 = .ok (.reserved_100_010 0b101101#6) := by rfl
theorem test_decode_reserved_101_010 :
    decode 0b0000101010101101#16 = .ok (.reserved_101_010 0b101101#6) := by rfl
theorem test_decode_mov_sr : decode 0b0000110010101110#16 = .ok (.mov_sr 0b101#3 .r6) := by rfl
theorem test_decode_mov_rs : decode 0b0000111010101110#16 = .ok (.mov_rs 0b101#3 .r6) := by rfl
theorem test_decode_ret : decode 0b0000000011111111#16 = .ok .ret := by rfl
theorem test_decode_reti : decode 0b0000001011111111#16 = .ok .reti := by rfl
theorem test_decode_dint : decode 0b0000010011111111#16 = .ok .dint := by rfl
theorem test_decode_eint : decode 0b0000011011111111#16 = .ok .eint := by rfl
theorem test_decode_halt : decode 0b0000100011111111#16 = .ok .halt := by rfl
theorem test_decode_reserved_101_011 :
    decode 0b0000101011101101#16 = .ok (.reserved_101_011 0b101101#6) := by rfl
theorem test_decode_reserved_110_011 :
    decode 0b0000110011101101#16 = .ok (.reserved_110_011 0b101101#6) := by rfl
theorem test_decode_reserved_111_011 :
    decode 0b0000111011101101#16 = .ok (.reserved_111_011 0b101101#6) := by rfl
theorem test_decode_reserved_xxx_10x :
    decode 0b0000011101011010#16 = .ok (.reserved_xxx_10x 0b011#3 0b1011010#7) := by rfl
theorem test_decode_table_word : decodeTableWord 16 0x53FB = some (.mov_kr 127 .r3) := by rfl

/-! ## One step of every instruction -/

/-- One step from `s` with the word `w` at PC answers a next state that meets `p`. -/
def runs (w : Nat) (s : State) (p : State → Bool) : Bool :=
  match step (s.withFetchWord 16 w) with
  | .next t => p t
  | .fault _ | .refused _ => false

/-- The flags in the order of the vectors: V, S, C, Z. -/
def flags (s : State) : Bool × Bool × Bool × Bool := (s.sr.v, s.sr.s, s.sr.c, s.sr.z)

theorem test_pfix_k :
    runs 0xF923 State.reset
      (fun t => t.pfx == ⟨true, 0x123⟩ && t.pc == 0x0001) = true := by decide
theorem test_call :
    runs 0xF123 { State.reset with sp := 0x1000, pc := 0x0020 }
      (fun t => t.sp == 0x0FFE && t.dm.read 0x0FFE == some 0x21 && t.dm.read 0x0FFF == some 0x00 &&
        t.pc == 0x0123) = true := by decide
theorem test_call_wraps :
    runs 0xF7FF { State.reset with sp := 0x0000, pc := 0xFFFF }
      (fun t => t.sp == 0xFFFE && t.dm.read 0xFFFE == some 0x00 && t.dm.read 0xFFFF == some 0x00 &&
        t.pc == 0x07FF) = true := by decide
theorem test_lea_mr :
    runs 0xC7CA
      { State.reset with
        regs := #v[0, 0xFFF0, 0, 0, 0, 0, 0, 0]
        sr := ⟨false, false, false, true, false⟩ }
      (fun t => t.reg .r2 == 0x000F && flags t == (false, false, true, false) && t.pc == 0x0001) =
        true := by decide
theorem test_lea_mr_prefixed :
    runs 0xC78A { State.reset with regs := #v[0, 0x0005, 0, 0, 0, 0, 0, 0], pfx := ⟨true, 0x7FF⟩ }
      (fun t => t.reg .r2 == 0x0003 && t.pfx.valid == false) = true := by decide
theorem test_movw_mr_over_base :
    runs 0xC89B
      { State.reset with
        regs := #v[0, 0, 0, 0xFFFE, 0, 0, 0, 0]
        dm := [(0x0000, 0x78), (0x0001, 0x56)] }
      (fun t => t.reg .r3 == 0x5678) = true := by decide
theorem test_movw_mr_big :
    runs 0xC918
      { State.reset with
        regs := #v[0, 0, 0, 0x2000, 0, 0, 0, 0]
        dm := [(0x2004, 0x34), (0x2005, 0x12)]
        cfg := { endian := .big } }
      (fun t => t.reg .r0 == 0x3412) = true := by decide
theorem test_movzb_mr :
    runs 0xD058 { State.reset with regs := #v[0, 0, 0, 0x2000, 0, 0, 0, 0], dm := [(0x2001, 0x80)] }
      (fun t => t.reg .r0 == 0x0080) = true := by decide
theorem test_movsb_mr :
    runs 0xD858 { State.reset with regs := #v[0, 0, 0, 0x2000, 0, 0, 0, 0], dm := [(0x2001, 0x80)] }
      (fun t => t.reg .r0 == 0xFF80) = true := by decide
theorem test_movsb_mr_positive :
    runs 0xD858 { State.reset with regs := #v[0, 0, 0, 0x2000, 0, 0, 0, 0], dm := [(0x2001, 0x7F)] }
      (fun t => t.reg .r0 == 0x007F) = true := by decide
theorem test_movw_rm :
    runs 0xE09D { State.reset with regs := #v[0, 0, 0, 0x2000, 0, 0xBEEF, 0, 0] }
      (fun t => t.dm.read 0x2002 == some 0xEF && t.dm.read 0x2003 == some 0xBE && t.reg .r3 ==
        0x2000) = true := by decide
theorem test_movb_rm :
    runs 0xE8DD
      { State.reset with
        regs := #v[0, 0, 0, 0x2000, 0, 0xBEEF, 0, 0]
        dm := [(0x2002, 0x11)] }
      (fun t => t.dm.read 0x2003 == some 0xEF && t.dm.read 0x2002 == some 0x11) = true := by decide
theorem test_mov_kr :
    runs 0x5400 State.reset
      (fun t => t.reg .r0 == 0xFF80 && t.pc == 0x0001) = true := by decide
theorem test_mov_kr_prefixed :
    runs 0x57A3 { State.reset with pfx := ⟨true, 0x091⟩ }
      (fun t => t.reg .r3 == 0x1234 && t.pfx.valid == false) = true := by decide
theorem test_cmp_rk :
    runs 0x5FFA { State.reset with regs := #v[0, 0, 0x7FFF, 0, 0, 0, 0, 0] }
      (fun t => flags t == (true, true, false, false) && t.reg .r2 == 0x7FFF) = true := by decide
theorem test_cmp_rk_unsigned :
    runs 0x580A { State.reset with regs := #v[0, 0, 0x8000, 0, 0, 0, 0, 0] }
      (fun t => flags t == (true, false, true, false)) = true := by decide
theorem test_add_kr :
    runs 0x67FA { State.reset with regs := #v[0, 0, 0xFF00, 0, 0, 0, 0, 0] }
      (fun t => t.reg .r2 == 0xFFFF && flags t == (false, true, false, false)) = true := by decide
theorem test_add_kr_overflow :
    runs 0x600A { State.reset with regs := #v[0, 0, 0x7FFF, 0, 0, 0, 0, 0] }
      (fun t => t.reg .r2 == 0x8000 && flags t == (true, true, false, false)) = true := by decide
theorem test_sub_kr :
    runs 0x680A { State.reset with regs := #v[0, 0, 0x0000, 0, 0, 0, 0, 0] }
      (fun t => t.reg .r2 == 0xFFFF && flags t == (false, true, false, false)) = true := by decide
theorem test_sub_kr_overflow :
    runs 0x680A { State.reset with regs := #v[0, 0, 0x8000, 0, 0, 0, 0, 0] }
      (fun t => t.reg .r2 == 0x7FFF && flags t == (true, false, true, false)) = true := by decide
theorem test_and_kr :
    runs 0x7782 { State.reset with regs := #v[0, 0, 0xABCD, 0, 0, 0, 0, 0] }
      (fun t => t.reg .r2 == 0x00C0 && t.sr.s == false && t.sr.z == false) = true := by decide
theorem test_and_kr_zero :
    runs 0x77FA { State.reset with regs := #v[0, 0, 0xFF00, 0, 0, 0, 0, 0] }
      (fun t => t.reg .r2 == 0x0000 && t.sr.s == false && t.sr.z == true) = true := by decide
theorem test_movw_ar :
    runs 0x7FF1 { State.reset with dm := [(0x00FE, 0x34), (0x00FF, 0x12)] }
      (fun t => t.reg .r1 == 0x1234) = true := by decide
theorem test_movsb_ar :
    runs 0x8209 { State.reset with dm := [(0x0041, 0x80)] }
      (fun t => t.reg .r1 == 0xFF80) = true := by decide
theorem test_movw_ra :
    runs 0x8A01 { State.reset with regs := #v[0, 0xBEEF, 0, 0, 0, 0, 0, 0] }
      (fun t => t.dm.read 0x0040 == some 0xEF && t.dm.read 0x0041 == some 0xBE) = true := by decide
theorem test_movb_ra :
    runs 0x9209 { State.reset with regs := #v[0, 0xBEEF, 0, 0, 0, 0, 0, 0] }
      (fun t => t.dm.read 0x0041 == some 0xEF) = true := by decide
theorem test_lea_qr :
    runs 0x9FF9 { State.reset with sp := 0xFF80 }
      (fun t => t.reg .r1 == 0x007F && t.sp == 0xFF80) = true := by decide
theorem test_movw_qr :
    runs 0xA011 { State.reset with sp := 0x1000, dm := [(0x1002, 0x34), (0x1003, 0x12)] }
      (fun t => t.reg .r1 == 0x1234) = true := by decide
theorem test_movsb_qr :
    runs 0xA819 { State.reset with sp := 0x1000, dm := [(0x1003, 0xFE)] }
      (fun t => t.reg .r1 == 0xFFFE) = true := by decide
theorem test_movw_rq :
    runs 0xB021 { State.reset with regs := #v[0, 0xBEEF, 0, 0, 0, 0, 0, 0], sp := 0x1000 }
      (fun t => t.dm.read 0x1004 == some 0xEF && t.dm.read 0x1005 == some 0xBE) = true := by decide
theorem test_movb_rq :
    runs 0xB829 { State.reset with regs := #v[0, 0xBEEF, 0, 0, 0, 0, 0, 0], sp := 0x1000 }
      (fun t => t.dm.read 0x1005 == some 0xEF) = true := by decide
theorem test_br_ck :
    runs 0x43FE { State.reset with pc := 0x0020 }
      (fun t => t.pc == 0x001F) = true := by decide
theorem test_br_ck_not_taken :
    runs 0x4003 { State.reset with pc := 0x0020 }
      (fun t => t.pc == 0x0021) = true := by decide
theorem test_add_kq :
    runs 0x3DFC { State.reset with sp := 0x1000, sr := ⟨false, false, false, true, false⟩ }
      (fun t => t.sp == 0x0FFC && flags t == (false, false, true, false)) = true := by decide
theorem test_jmp_k :
    runs 0x3FFF { State.reset with pc := 0x0055 }
      (fun t => t.pc == 0x0055) = true := by decide
theorem test_jmp_k_prefixed :
    runs 0x3E00 { State.reset with pc := 0x0201, pfx := ⟨true, 0x7F8⟩ }
      (fun t => t.pc == 0x0102 && t.pfx.valid == false) = true := by decide
theorem test_cmp_rr :
    runs 0x2088 { State.reset with regs := #v[0, 0x8000, 0x0001, 0, 0, 0, 0, 0] }
      (fun t => flags t == (true, false, true, false)) = true := by decide
theorem test_cmp_rr_less :
    runs 0x2088 { State.reset with regs := #v[0, 0x0003, 0x0005, 0, 0, 0, 0, 0] }
      (fun t => flags t == (false, true, false, false)) = true := by decide
theorem test_cmpc_rr :
    runs 0x2288
      { State.reset with
        regs := #v[0, 0x0005, 0x0005, 0, 0, 0, 0, 0]
        sr := ⟨false, false, false, true, false⟩ }
      (fun t => flags t == (false, true, false, false)) = true := by decide
theorem test_cmpc_rr_chained :
    runs 0x2288
      { State.reset with
        regs := #v[0, 0x0005, 0x0005, 0, 0, 0, 0, 0]
        sr := ⟨false, false, false, true, false⟩
        cfg := { subcBorrow := .chained } }
      (fun t => flags t == (false, false, true, true)) = true := by decide
theorem test_sub_rrr :
    runs 0x248B { State.reset with regs := #v[0, 0x0003, 0x0005, 0, 0, 0, 0, 0] }
      (fun t => t.reg .r3 == 0xFFFE && flags t == (false, true, false, false)) = true := by decide
theorem test_sub_rrr_overflow :
    runs 0x248B { State.reset with regs := #v[0, 0x8000, 0x0001, 0, 0, 0, 0, 0] }
      (fun t => t.reg .r3 == 0x7FFF && flags t == (true, false, true, false)) = true := by decide
theorem test_subc_rrr :
    runs 0x268B
      { State.reset with
        regs := #v[0, 0x0000, 0xFFFF, 0, 0, 0, 0, 0]
        sr := ⟨false, false, false, true, false⟩ }
      (fun t => t.reg .r3 == 0x0000 && flags t == (false, false, false, true)) = true := by decide
theorem test_subc_rrr_chained :
    runs 0x268B
      { State.reset with
        regs := #v[0, 0x0005, 0x0003, 0, 0, 0, 0, 0]
        cfg := { subcBorrow := .chained } }
      (fun t => t.reg .r3 == 0x0001 && flags t == (false, false, true, false)) = true := by decide
theorem test_or_rrr :
    runs 0x288B { State.reset with regs := #v[0, 0x8000, 0x0001, 0, 0, 0, 0, 0] }
      (fun t => t.reg .r3 == 0x8001 && t.sr.s == true && t.sr.z == false) = true := by decide
theorem test_and_rrr :
    runs 0x2A8B { State.reset with regs := #v[0, 0xFF00, 0x00FF, 0, 0, 0, 0, 0] }
      (fun t => t.reg .r3 == 0x0000 && t.sr.s == false && t.sr.z == true) = true := by decide
theorem test_xor_rrr :
    runs 0x2C8B { State.reset with regs := #v[0, 0xFFFF, 0x00FF, 0, 0, 0, 0, 0] }
      (fun t => t.reg .r3 == 0xFF00 && t.sr.s == true && t.sr.z == false) = true := by decide
theorem test_adc_rrr :
    runs 0x2E8B
      { State.reset with
        regs := #v[0, 0xFFFF, 0xFFFF, 0, 0, 0, 0, 0]
        sr := ⟨false, false, false, true, false⟩ }
      (fun t => t.reg .r3 == 0xFFFF && flags t == (false, true, true, false)) = true := by decide
theorem test_adc_rrr_overflow :
    runs 0x2E8B
      { State.reset with
        regs := #v[0, 0x7FFF, 0x0000, 0, 0, 0, 0, 0]
        sr := ⟨false, false, false, true, false⟩ }
      (fun t => t.reg .r3 == 0x8000 && flags t == (true, true, false, false)) = true := by decide
theorem test_add_rrr :
    runs 0x308B { State.reset with regs := #v[0, 0x8000, 0xFFFF, 0, 0, 0, 0, 0] }
      (fun t => t.reg .r3 == 0x7FFF && flags t == (true, false, true, false)) = true := by decide
theorem test_add_rrr_same_register :
    runs 0x3049 { State.reset with regs := #v[0, 0xC001, 0, 0, 0, 0, 0, 0] }
      (fun t => t.reg .r1 == 0x8002 && flags t == (false, true, true, false)) = true := by decide
theorem test_movw_nr :
    runs 0x3288
      { State.reset with
        regs := #v[0, 0xFFFF, 0x0003, 0, 0, 0, 0, 0]
        dm := [(0x0002, 0x11), (0x0003, 0x22)] }
      (fun t => t.reg .r0 == 0x2211) = true := by decide
theorem test_movzb_nr :
    runs 0x3488
      { State.reset with
        regs := #v[0, 0x2000, 0x0001, 0, 0, 0, 0, 0]
        dm := [(0x2001, 0x80)] }
      (fun t => t.reg .r0 == 0x0080) = true := by decide
theorem test_movsb_nr :
    runs 0x3688
      { State.reset with
        regs := #v[0, 0x2000, 0x0001, 0, 0, 0, 0, 0]
        dm := [(0x2001, 0x80)] }
      (fun t => t.reg .r0 == 0xFF80) = true := by decide
theorem test_movw_rn :
    runs 0x388B { State.reset with regs := #v[0, 0x2000, 0x0002, 0xBEEF, 0, 0, 0, 0] }
      (fun t => t.dm.read 0x2002 == some 0xEF && t.dm.read 0x2003 == some 0xBE) = true := by decide
theorem test_movb_rn :
    runs 0x3A8B { State.reset with regs := #v[0, 0x2000, 0x0001, 0xBEEF, 0, 0, 0, 0] }
      (fun t => t.dm.read 0x2001 == some 0xEF) = true := by decide
theorem test_sel_crrr :
    runs 0x1C53
      { State.reset with
        regs := #v[0, 0xAAAA, 0x5555, 0, 0, 0, 0, 0]
        sr := ⟨false, false, false, true, true⟩ }
      (fun t => t.reg .r3 == 0xAAAA) = true := by decide
theorem test_sel_crrr_true :
    runs 0x1E8B
      { State.reset with
        regs := #v[0, 0xAAAA, 0x5555, 0, 0, 0, 0, 0]
        sr := ⟨false, true, true, false, false⟩ }
      (fun t => t.reg .r3 == 0xAAAA && flags t == (true, true, false, false)) = true := by decide
theorem test_set_cr :
    runs 0x0F84
      { State.reset with
        regs := #v[0, 0, 0, 0, 0xFFFF, 0, 0, 0]
        sr := ⟨false, true, true, false, false⟩ }
      (fun t => t.reg .r4 == 0x0001) = true := by decide
theorem test_set_cr_false :
    runs 0x0184 { State.reset with regs := #v[0, 0, 0, 0, 0xFFFF, 0, 0, 0] }
      (fun t => t.reg .r4 == 0x0000) = true := by decide
theorem test_mov_rr :
    runs 0x000A
      { State.reset with
        regs := #v[0, 0xBEEF, 0, 0, 0, 0, 0, 0]
        sr := ⟨false, false, false, true, false⟩ }
      (fun t => t.reg .r2 == 0xBEEF && flags t == (false, false, true, false)) = true := by decide
theorem test_mov_rr_nop :
    runs 0x0000 { State.reset with regs := #v[0x1234, 0, 0, 0, 0, 0, 0, 0] }
      (fun t => t.reg .r0 == 0x1234 && t.pc == 0x0001) = true := by decide
theorem test_mov_rq :
    runs 0x020F { State.reset with regs := #v[0, 0x0FFE, 0, 0, 0, 0, 0, 0x1111] }
      (fun t => t.sp == 0x0FFE && t.reg .r7 == 0x1111) = true := by decide
theorem test_zext_rr :
    runs 0x040A { State.reset with regs := #v[0, 0xABCD, 0, 0, 0, 0, 0, 0] }
      (fun t => t.reg .r2 == 0x00CD) = true := by decide
theorem test_sext_rr :
    runs 0x060A { State.reset with regs := #v[0, 0xABCD, 0, 0, 0, 0, 0, 0] }
      (fun t => t.reg .r2 == 0xFFCD) = true := by decide
theorem test_sext_rr_positive :
    runs 0x060A { State.reset with regs := #v[0, 0xAB7F, 0, 0, 0, 0, 0, 0] }
      (fun t => t.reg .r2 == 0x007F) = true := by decide
theorem test_bswap_rr :
    runs 0x080A { State.reset with regs := #v[0, 0xABCD, 0, 0, 0, 0, 0, 0] }
      (fun t => t.reg .r2 == 0xCDAB) = true := by decide
theorem test_sextw_rr :
    runs 0x0A0A { State.reset with regs := #v[0, 0x8000, 0, 0, 0, 0, 0, 0] }
      (fun t => t.reg .r2 == 0xFFFF) = true := by decide
theorem test_sextw_rr_positive :
    runs 0x0A0A { State.reset with regs := #v[0, 0x7FFF, 0x1111, 0, 0, 0, 0, 0] }
      (fun t => t.reg .r2 == 0x0000) = true := by decide
theorem test_movw_pr :
    runs 0x0E0A
      { State.reset with
        regs := #v[0, 0x0040, 0, 0, 0, 0, 0, 0]
        pm := [(0x0040, 0xCAFE)] }
      (fun t => t.reg .r2 == 0xCAFE) = true := by decide
theorem test_lsr_rr :
    runs 0x004A { State.reset with regs := #v[0, 0x8001, 0, 0, 0, 0, 0, 0] }
      (fun t => t.reg .r2 == 0x4000 && t.sr.c == true) = true := by decide
theorem test_lsrc_rr :
    runs 0x024A
      { State.reset with
        regs := #v[0, 0x0002, 0, 0, 0, 0, 0, 0]
        sr := ⟨false, false, false, true, false⟩ }
      (fun t => t.reg .r2 == 0x8001 && t.sr.c == false) = true := by decide
theorem test_lsrc_rr_clear :
    runs 0x024A { State.reset with regs := #v[0, 0x8001, 0, 0, 0, 0, 0, 0] }
      (fun t => t.reg .r2 == 0x4000 && t.sr.c == true) = true := by decide
theorem test_asr_rr :
    runs 0x044A { State.reset with regs := #v[0, 0x8001, 0, 0, 0, 0, 0, 0] }
      (fun t => t.reg .r2 == 0xC000 && t.sr.c == true) = true := by decide
theorem test_asr_rr_positive :
    runs 0x044A
      { State.reset with
        regs := #v[0, 0x7FFE, 0, 0, 0, 0, 0, 0]
        sr := ⟨false, false, false, true, false⟩ }
      (fun t => t.reg .r2 == 0x3FFF && t.sr.c == false) = true := by decide
theorem test_neg_rr :
    runs 0x0A4A { State.reset with regs := #v[0, 0x8000, 0, 0, 0, 0, 0, 0] }
      (fun t => t.reg .r2 == 0x8000 && flags t == (true, true, false, false)) = true := by decide
theorem test_neg_rr_zero :
    runs 0x0A4A { State.reset with regs := #v[0, 0x0000, 0, 0, 0, 0, 0, 0] }
      (fun t => t.reg .r2 == 0x0000 && flags t == (false, false, true, true)) = true := by decide
theorem test_not_rr :
    runs 0x0C4A { State.reset with regs := #v[0, 0x00FF, 0, 0, 0, 0, 0, 0] }
      (fun t => t.reg .r2 == 0xFF00 && t.sr.s == true && t.sr.z == false) = true := by decide
theorem test_jmp_r :
    runs 0x0085 { State.reset with regs := #v[0, 0, 0, 0, 0, 0x0400, 0, 0], pc := 0x0010 }
      (fun t => t.pc == 0x0400) = true := by decide
theorem test_call_r :
    runs 0x0285
      { State.reset with
        regs := #v[0, 0, 0, 0, 0, 0x0400, 0, 0]
        sp := 0x1000
        pc := 0x0010 }
      (fun t => t.sp == 0x0FFE && t.dm.read 0x0FFE == some 0x11 && t.dm.read 0x0FFF == some 0x00 &&
        t.pc == 0x0400) = true := by decide
theorem test_push_r :
    runs 0x0483 { State.reset with regs := #v[0, 0, 0, 0x1234, 0, 0, 0, 0], sp := 0x0000 }
      (fun t => t.sp == 0xFFFE && t.dm.read 0xFFFE == some 0x34 && t.dm.read 0xFFFF == some 0x12) =
        true := by decide
theorem test_pop_r :
    runs 0x0684 { State.reset with sp := 0x0FFE, dm := [(0x0FFE, 0x34), (0x0FFF, 0x12)] }
      (fun t => t.reg .r4 == 0x1234 && t.sp == 0x1000) = true := by decide
theorem test_ret :
    runs 0x00C0
      { State.reset with
        sp := 0x0FFE
        pc := 0x0123
        dm := [(0x0FFE, 0x11), (0x0FFF, 0x00)] }
      (fun t => t.pc == 0x0011 && t.sp == 0x1000) = true := by decide
theorem test_dint :
    runs 0x04C0 { State.reset with sr := ⟨true, false, false, true, false⟩ }
      (fun t => t.sr.i == false && flags t == (false, false, true, false) && t.pc == 0x0001) = true
        := by decide
theorem test_eint :
    runs 0x06C0 State.reset
      (fun t => t.sr.i == true && t.pc == 0x0001) = true := by decide
theorem test_halt :
    runs 0x08C0 { State.reset with pc := 0x0005 }
      (fun t => t.run == .halted && t.pc == 0x0006) = true := by decide

/-! ## Stops -/

theorem test_reti_refused :
    step (State.reset.withFetchWord 16 0x02C0) = .refused .returnFromInterrupt := by rfl
theorem test_reserved_fault :
    step (State.reset.withFetchWord 16 0x0C00) = .fault (.illegalInstruction 0x0C00 0) := by rfl
theorem test_reserved_10x_fault :
    step (State.reset.withFetchWord 16 0x0F7F) = .fault (.illegalInstruction 0x0F7F 0) := by rfl
theorem test_mov_sr_fault :
    step (State.reset.withFetchWord 16 0x0C81) = .fault (.illegalInstruction 0x0C81 0) := by rfl
theorem test_mov_rs_fault :
    step (State.reset.withFetchWord 16 0x0E81) = .fault (.illegalInstruction 0x0E81 0) := by rfl
theorem test_call_misaligned :
    step (State.withFetchWord { State.reset with sp := 0x1001 } 16 0xF005) =
      .fault (.misaligned 0x0FFF) := by rfl
theorem test_load_misaligned :
    step (State.reset.withFetchWord 16 0x7A09) = .fault (.misaligned 0x0041) := by rfl
theorem test_two_prefixes_refused :
    step (State.withFetchWord { State.reset with pfx := ⟨true, 1⟩ } 16 0xF802) =
      .refused (.prefixMisuse 0xF801 0xF802) := by rfl
theorem test_prefix_before_add_refused :
    step (State.withFetchWord { State.reset with pfx := ⟨true, 1⟩ } 16 0x308B) =
      .refused (.prefixMisuse 0xF801 0x308B) := by rfl
theorem test_reset_executes_a_nop :
    step State.reset = .next { State.reset with pc := 1 } := by rfl
theorem test_reset_memory_canonical : State.reset.wf = true := by decide

/-! ## Assembler forms: the words of the vectors -/

theorem test_expand_long_mov :
    ((AsmSource.long (.mov_kr 0 .r3) 0xABCD).expand).map (·.map encode) =
      some [0xFD5E, 0x506B] := by rfl
theorem test_expand_long_call :
    ((AsmSource.long (.call 0) 0xABCD).expand).map (·.map encode) = some [0xFD5E, 0xF00D] := by rfl
theorem test_expand_lsl :
    ((AsmSource.lsl .r1 .r1).expand).map (·.map encode) = some [0x3049] := by rfl
theorem test_expand_selule :
    ((AsmSource.selUle .r1 .r2 .r3).expand).map (·.map encode) = some [0x1C53] := by rfl
theorem test_expand_nop : (AsmSource.nop.expand).map (·.map encode) = some [0x0000] := by rfl
theorem test_expand_refuses_reserved :
    (AsmSource.core (.mov_sr 0 .r1)).expand = none := by rfl
theorem test_assembly_store :
    (AsmSource.core (.movw_rm .r5 .r3 2)).line =
      some ⟨"st.w", none, [.reg .r5, .regImm .r3 2]⟩ := by rfl
theorem test_assembly_long_add :
    (AsmSource.long (.add_kr .r2 0) 0xFFFF).line =
      some ⟨"add", none, [.reg .r2, .longImm 0xFFFF, .reg .r2]⟩ := by rfl
theorem test_assembly_branch :
    (AsmSource.core (.br_ck .ne 0x1FE)).line =
      some ⟨"br", some (.machine .ne), [.label (-2)]⟩ := by rfl

/-! ## Witnesses: the hypotheses of each obligation can be met, clause by clause -/

/-- Reset with three registers, SP, a prefix latch and parameters given. -/
def sample (r1 r2 r3 sp : Word) (pfx : PrefixLatch := ⟨false, 0⟩) (cfg : Config := {}) : State :=
  { State.resetWith { cfg := cfg, regs := #v[0, r1, r2, r3, 0, 0, 0, 0], sp := sp } with
    pfx := pfx }

/-- Data memory of 65535 bytes: the word at 0xFFFE is not all there. -/
def shortMemory : Config := { dmBytes := 65535 }

/-- Data memory with two regions, one of them at odd addresses, that overlap from 0x0101 to 0x01FF.
-/
def withRegions : Config := { memMap := [⟨0x101, 0x100, 0⟩, ⟨0x100, 0x100, 1⟩] }

theorem present_default (a : Word) : Present {} a := a.isLt

theorem presentWord_default (a : Word) : PresentWord {} a :=
  ⟨present_default a, present_default (a + 1)⟩

theorem plain_default (a : Word) : Plain {} a := ⟨a.isLt, fun ⟨_, h, _⟩ => nomatch h⟩

theorem plainWord_default (a : Word) : PlainWord {} a := ⟨plain_default a, plain_default (a + 1)⟩

theorem not_present_short : ¬Present shortMemory 0xFFFF := fun h =>
  absurd (show 65535 < 65535 from h) (by decide)

theorem not_presentWord_short : ¬PresentWord shortMemory 0xFFFE :=
  fun h => not_present_short h.2

/-! ## Regions of MEM_MAP -/

/-- A load in a region takes what the region's own definition answers, and the region sees it. -/
theorem test_load_from_region :
    step (State.withFetchWord (sample 0x0200 0 0x0100 0 ⟨false, 0⟩ withRegions) 16 0xD059) =
      .next
        { (State.withFetchWord (sample 0x0200 0 0x0100 0 ⟨false, 0⟩ withRegions) 16 0xD059) with
          pc := 1
          regs := #v[0, (Config.regionByte ⟨0x101, 0x100, 0⟩ [.readByte 0x0101] 0x0101).setWidth 16,
            0, 0x0100, 0, 0, 0, 0]
          regionLog := [.readByte 0x0101] } := by rfl

/-- A store in a region writes DM and the region sees it; beside the regions none does. -/
theorem test_store_to_region :
    runs 0xE800 (sample 0 0 0 0 ⟨true, 0x008⟩ withRegions)
      (fun t => t.dm.read 0x0100 == some 0 && t.regionLog == [.writeByte 0x0100 0]) = true := by
  decide
theorem test_store_beside_region :
    runs 0xE001 (sample 0x00FE 0 0 0 ⟨false, 0⟩ withRegions)
      (fun t => t.regionLog == []) = true := by decide

/-- The three clauses of a word access: an even address at the top of memory, the odd one above it,
and the even one where the last byte is missing. -/
def WordClauses (top odd short : State) (ea : State → Word) : Prop :=
  (IsEven (ea top) ∧ PresentWord top.cfg (ea top)) ∧
    (¬IsEven (ea odd) ∧ odd.cfg.misaligned = .fault) ∧
    (IsEven (ea short) ∧ ¬PresentWord short.cfg (ea short))

/-- The two clauses of a byte access, at the last address. -/
def ByteClauses (top short : State) (ea : State → Word) : Prop :=
  Present top.cfg (ea top) ∧ ¬Present short.cfg (ea short)

theorem witness_EveryWordBelongsToExactlyOneRow :
    0x3049#16 &&& (Instr.add_rrr .r7 .r6 .r5).opcodeRow.mask =
      (Instr.add_rrr .r7 .r6 .r5).opcodeRow.pattern := by decide
theorem witness_EncodeOfDecodeKeepsTheUsedBits :
    decode 0x01FC#16 = .ok (.set_cr .eq .r4) ∧ encode (.set_cr .eq .r4) = 0x0184#16 := ⟨rfl, rfl⟩
theorem witness_UnusedBitsAreIgnored :
    decode 0x0184#16 = .ok (.set_cr .eq .r4) ∧ (Instr.set_cr .eq .r4).implemented = true ∧
      0x01FC#16 &&& (Instr.set_cr .eq .r4).opcodeRow.used =
        0x0184#16 &&& (Instr.set_cr .eq .r4).opcodeRow.used := ⟨rfl, by decide, by decide⟩
theorem witness_StepRunsTheDecodedInstruction :
    let s := State.withFetchWord { State.reset with pc := 0xFFFF } 16 0x308B
    s.run = .running ∧ s.pc.toNat < s.cfg.pmWords ∧
      decode (s.pmWord s.pc) = .ok (.add_rrr .r1 .r2 .r3) := ⟨rfl, by decide, rfl⟩
theorem witness_FetchBeyondProgramMemoryIsRefused :
    let s : State := { State.reset with pc := 16, cfg := { pmWords := 16 } }
    s.run = .running ∧ s.cfg.pmWords ≤ s.pc.toNat := by decide
theorem witness_HaltedMachineKeepsItsState :
    { State.reset with run := .halted }.run = .halted := rfl
theorem witness_NoStepChangesProgramMemory :
    ∃ t, step (State.withFetchWord (sample 0x2000 2 3 0) 16 0x388B) = .next t := ⟨_, rfl⟩
theorem witness_StepKeepsMemoriesCanonical :
    (State.withFetchWord (sample 0x2000 2 3 0) 16 0x388B).wf = true ∧
      ∃ t, step (State.withFetchWord (sample 0x2000 2 3 0) 16 0x388B) = .next t :=
  ⟨by decide, ⟨_, rfl⟩⟩
theorem witness_ResetSetsWhatTheSpecSets :
    ({ program := [0x1234, 0xFFFF] } : Launch).program[(1 : Word).toNat]? = some 0xFFFF := rfl
theorem witness_PrefixReachesExactlyTheNextInstruction :
    (let s := State.reset.withFetchWord 16 0xF923
     s.run = .running ∧ decode (s.pmWord s.pc) = .ok (.pfix_k 0x123) ∧ ∃ t, step s = .next t) ∧
    (let s := State.withFetchWord (sample 0 0 0 0 ⟨true, 5⟩) 16 0x50A3
     s.run = .running ∧ decode (s.pmWord s.pc) = .ok (.mov_kr 0x14 .r3) ∧
       ∃ t, step s = .next t) := ⟨⟨rfl, rfl, _, rfl⟩, rfl, rfl, _, rfl⟩
theorem witness_OnlyDintAndEintChangeTheInterruptFlag :
    ∃ t, exec (.add_rrr .r1 .r2 .r3) (sample 1 2 3 0) = .next t := ⟨_, rfl⟩
theorem witness_OnlyListedInstructionsChangeTheConditionFlags :
    writesConditionFlags (.lea_mr .r1 1 .r2) = false ∧
      ∃ t, exec (.lea_mr .r1 1 .r2) (sample 0xFFFF 2 3 0) = .next t := ⟨rfl, _, rfl⟩
theorem witness_OnlyListedInstructionsChangeTheStackPointer :
    writesSp (.lea_qr 1 .r2) = false ∧
      ∃ t, exec (.lea_qr 1 .r2) (sample 0 0 0 0xFFFF) = .next t := ⟨rfl, _, rfl⟩
theorem witness_OnlyListedInstructionsAssignTheProgramCounter :
    (assignsPc .halt = false ∧ ∃ t, exec .halt { State.reset with pc := 0xFFFF } = .next t) ∧
    (condHolds .eq State.reset.sr = false ∧ ∃ t, exec (.br_ck .eq 5) State.reset = .next t) :=
  ⟨⟨rfl, _, rfl⟩, rfl, _, rfl⟩
theorem witness_OnlyStoresChangeDataMemory :
    storesToMemory .ret = false ∧
      ∃ t, exec .ret { sample 0 0 0 0xFFFE with dm := [(0xFFFE, 1), (0xFFFF, 2)] } = .next t :=
  ⟨rfl, _, rfl⟩
theorem witness_OnlyTheDestinationRegisterChanges :
    destination (.push_r .r1) ≠ some .r1 ∧ destination (.mov_rr .r1 .r2) ≠ some .r1 ∧
      (∃ t, exec (.push_r .r1) (sample 1 2 3 0) = .next t) ∧
      ∃ t, exec (.mov_rr .r1 .r2) (sample 1 2 3 0) = .next t :=
  ⟨by decide, by decide, ⟨_, rfl⟩, _, rfl⟩
theorem witness_PrefixMisuseIsRefusedFirst :
    (sample 0 0 0 0 ⟨true, 0⟩).pfx.valid = true ∧ (Instr.pfix_k 0).prefixable = false ∧
      (Instr.reserved_110_000 0).prefixable = false ∧ (Instr.call 0).prefixable = true := by decide
theorem witness_CompareAnswersEveryRelation :
    ∃ t, exec (.cmp_rr .r1 .r2) (sample 0x8000 1 0 0) = .next t := ⟨_, rfl⟩
theorem witness_SubtractionResultAndFlags :
    ∃ bin : Bool, bin = false := ⟨false, rfl⟩
theorem witness_EffectiveImmediateByPrefixOrExtension :
    (5 : Nat) ≤ 5 ∧ 16 ≤ 16 ∧ (sample 0 0 0 0 ⟨true, 0x7FF⟩).pfx.valid = true ∧
      State.reset.pfx.valid = false := by decide
theorem witness_PrefixedMoveLoadsAnyWord :
    State.reset.pfx.valid = false ∧
      (0x1F#8).extractLsb' 0 5 = (0xFFFF#16).extractLsb' 0 5 ∧
      (0xE0#8).extractLsb' 0 5 = (0#16).extractLsb' 0 5 := by decide
theorem witness_StoredWordsAndBytesReadBack :
    IsEven 0xFFFE ∧ PlainWord State.reset.cfg 0xFFFE ∧ IsEven 0 ∧
      PlainWord State.reset.cfg 0 :=
  ⟨rfl, plainWord_default _, rfl, plainWord_default _⟩
theorem witness_OddWordAccessFaults :
    (¬IsEven 0xFFFF ∧ State.reset.cfg.misaligned = .fault) ∧ Present State.reset.cfg 0xFFFF ∧
      (¬InRegion withRegions 0x00FF ∧ ¬InRegion withRegions 0x0201) ∧
      (withRegions.memMap = [⟨0x101, 0x100, 0⟩] ++ ⟨0x100, 0x100, 1⟩ :: [] ∧
        (∀ h ∈ [(⟨0x101, 0x100, 0⟩ : Region)], ¬Holds h 0x0100) ∧ Holds ⟨0x100, 0x100, 1⟩ 0x0100) ∧
      withRegions.memMap = [] ++ ⟨0x101, 0x100, 0⟩ :: [⟨0x100, 0x100, 1⟩] ∧
        Holds ⟨0x101, 0x100, 0⟩ 0x0200 :=
  ⟨⟨by unfold IsEven; decide, rfl⟩, present_default _,
    ⟨by simp [InRegion, Holds, withRegions], by simp [InRegion, Holds, withRegions]⟩,
    ⟨rfl, by simp [Holds], by simp [Holds]⟩, rfl, by simp [Holds]⟩
/-- The words a load or store may meet at the edges of regions: with no byte, the second byte, the
first byte in one. -/
theorem witness_word_at_region_edges :
    ¬WordInRegion withRegions 0x00FE ∧
      (¬InRegion withRegions 0x00FF ∧ WordInRegion withRegions 0x00FF) ∧
      (WordInRegion withRegions 0x0200 ∧ ¬InRegion withRegions 0x0201) ∧
      PresentWord withRegions 0x0200 := by
  refine ⟨?_, ⟨?_, ?_⟩, ⟨?_, ?_⟩, ?_⟩ <;>
    simp [WordInRegion, InRegion, Holds, withRegions, PresentWord, Present]

theorem witness_PrefixInstructionLoadsTheLatch : State.reset.pfx.valid = false := rfl
theorem witness_CallsPushTheReturnAddress :
    WordClauses (sample 0 0 0 0) (sample 0 0 0 1) (sample 0 0 0 0 ⟨false, 0⟩ shortMemory)
        (fun s => s.sp - s.cfg.stackStep) ∧
      (sample 0 0 0 0).pfx.valid = false :=
  ⟨⟨⟨rfl, presentWord_default _⟩, ⟨by unfold IsEven; decide, rfl⟩, rfl,
    not_presentWord_short⟩, rfl⟩
theorem witness_TwoRegisterMoves :
    (sample 0x8000 0 0 0).pfx.valid = false ∧ ((sample 0x8000 0 0 0).reg .r1).toInt < 0 := by decide
theorem witness_SelectAndSetByCondition :
    State.reset.pfx.valid = false ∧ condHolds .ne State.reset.sr = true ∧
      condHolds .eq State.reset.sr = false ∧ (sample 0 0 0 0 ⟨true, 1⟩).pfx.valid = true := by
  decide
theorem witness_LoadFromProgramMemory :
    (sample 15 16 0 0 ⟨false, 0⟩ { pmWords := 16 }).pfx.valid = false ∧
      ((sample 15 16 0 0 ⟨false, 0⟩ { pmWords := 16 }).reg .r1).toNat < 16 ∧
      16 ≤ ((sample 15 16 0 0 ⟨false, 0⟩ { pmWords := 16 }).reg .r2).toNat := by decide
theorem witness_StackPointerMoves : (sample 0xFFFF 0 0 0).pfx.valid = false := rfl
theorem witness_RegisterArithmetic : (sample 0x7FFF 1 0 0).pfx.valid = false := rfl
theorem witness_SubtractWithCarryUnderBothBorrowSenses :
    let s := sample 5 3 0 0
    let t := sample 5 3 0 0 ⟨false, 0⟩ { subcBorrow := .chained }
    (s.pfx.valid = false ∧ s.cfg.subcBorrow = .literal ∧ false = s.sr.c) ∧
      (t.pfx.valid = false ∧ t.cfg.subcBorrow = .chained ∧ true = !t.sr.c) := by decide
theorem witness_LogicInstructions : (sample 0xFF00 0x00FF 0 0).pfx.valid = false := rfl
theorem witness_ShiftsByOne : (sample 0x8001 0 0 0).pfx.valid = false := rfl

/-- The addresses of the loads and stores with register + immediate, words and bytes. -/
theorem witness_LoadsWithImmediateOffset :
    WordClauses (sample 0xFFFE 0 0 0) (sample 0xFFFF 0 0 0)
        (sample 0xFFFE 0 0 0 ⟨false, 0⟩ shortMemory) (fun s => s.reg .r1 + s.effImm 0#5 .zext) ∧
      ByteClauses (sample 0xFFFF 0 0 0) (sample 0xFFFF 0 0 0 ⟨false, 0⟩ shortMemory)
        (fun s => s.reg .r1 + s.effImm 0#5 .zext) :=
  ⟨⟨⟨by unfold IsEven; decide, presentWord_default _⟩, ⟨by unfold IsEven; decide, rfl⟩,
    by unfold IsEven; decide, not_presentWord_short⟩, present_default _, not_present_short⟩
theorem witness_StoresWithImmediateOffset :
    WordClauses (sample 0xFFDF 0 0 0) (sample 0xFFE0 0 0 0)
        (sample 0xFFDF 0 0 0 ⟨false, 0⟩ shortMemory) (fun s => s.reg .r1 + s.effImm 31#5 .zext) ∧
      ByteClauses (sample 0xFFE0 0 0 0) (sample 0xFFE0 0 0 0 ⟨false, 0⟩ shortMemory)
        (fun s => s.reg .r1 + s.effImm 31#5 .zext) :=
  ⟨⟨⟨by unfold IsEven; decide, presentWord_default _⟩, ⟨by unfold IsEven; decide, rfl⟩,
    by unfold IsEven; decide, not_presentWord_short⟩, present_default _,
    not_present_short⟩
/-- Absolute addresses reach the top of memory through a prefix. -/
theorem witness_LoadsAbsoluteAndFromTheStack :
    WordClauses (sample 0 0 0 0 ⟨true, 0x7FF⟩) (sample 0 0 0 1 ⟨true, 0x7FF⟩)
        (sample 0 0 0 0 ⟨true, 0x7FF⟩ shortMemory) (fun s => s.sp + s.effImm 0x1E#8 s.cfg.spkExt) ∧
      ByteClauses (sample 0 0 0 0 ⟨true, 0x7FF⟩) (sample 0 0 0 0 ⟨true, 0x7FF⟩ shortMemory)
        (fun s => s.effImm 0x1F#8 s.cfg.absExt) :=
  ⟨⟨⟨by unfold IsEven; decide, presentWord_default _⟩, ⟨by unfold IsEven; decide, rfl⟩,
    by unfold IsEven; decide, not_presentWord_short⟩, present_default _, not_present_short⟩
theorem witness_StoresAbsoluteAndToTheStack :
    WordClauses (sample 0 0 0 0 ⟨true, 0x7FF⟩) (sample 0 0 0 1 ⟨false, 0⟩)
        (sample 0 0 0 0 ⟨true, 0x7FF⟩ shortMemory) (fun s => s.sp + s.effImm 0x1E#8 s.cfg.spkExt) ∧
      ByteClauses (sample 0 0 0 0xFF00) (sample 0 0 0 0xFF00 ⟨false, 0⟩ shortMemory)
        (fun s => s.sp + s.effImm 0xFF#8 s.cfg.spkExt) :=
  ⟨⟨⟨by unfold IsEven; decide, presentWord_default _⟩, ⟨by unfold IsEven; decide, rfl⟩,
    by unfold IsEven; decide, not_presentWord_short⟩, present_default _, not_present_short⟩
theorem witness_LoadsWithRegisterOffset :
    (sample 0xFFFF 0xFFFF 0 0).pfx.valid = false ∧
      WordClauses (sample 0xFFFF 0xFFFF 0 0) (sample 0xFFFF 0 0 0)
        (sample 0x7FFF 0x7FFF 0 0 ⟨false, 0⟩ shortMemory) (fun s => s.reg .r1 + s.reg .r2) ∧
      ByteClauses (sample 0xFFFF 0 0 0) (sample 0x8000 0x7FFF 0 0 ⟨false, 0⟩ shortMemory)
        (fun s => s.reg .r1 + s.reg .r2) :=
  ⟨rfl, ⟨⟨by unfold IsEven; decide, presentWord_default _⟩, ⟨by unfold IsEven; decide, rfl⟩,
    by unfold IsEven; decide, not_presentWord_short⟩, present_default _, not_present_short⟩
theorem witness_StoresWithRegisterOffset :
    (sample 0xFFFF 3 0 0).pfx.valid = false ∧
      WordClauses (sample 0xFFFF 3 0 0) (sample 0x2000 1 0 0)
        (sample 0x7FFF 0x7FFF 0 0 ⟨false, 0⟩ shortMemory) (fun s => s.reg .r1 + s.reg .r2) ∧
      ByteClauses (sample 0xFFFF 0 0 0) (sample 0x8000 0x7FFF 0 0 ⟨false, 0⟩ shortMemory)
        (fun s => s.reg .r1 + s.reg .r2) :=
  ⟨rfl, ⟨⟨by unfold IsEven; decide, presentWord_default _⟩, ⟨by unfold IsEven; decide, rfl⟩,
    by unfold IsEven; decide, not_presentWord_short⟩, present_default _,
    not_present_short⟩
theorem witness_ConditionalBranch :
    condHolds .ne State.reset.sr = true ∧ condHolds .eq State.reset.sr = false ∧
      State.reset.cfg.brBase = .nextWord ∧
      (sample 0 0 0 0 ⟨false, 0⟩ { brBase := .branchWord }).cfg.brBase = .branchWord ∧
      condHolds .ne (sample 0 0 0 0 ⟨false, 0⟩ { brBase := .branchWord }).sr = true := by decide
theorem witness_UnconditionalJumps :
    State.reset.cfg.brBase = .nextWord ∧ State.reset.pfx.valid = false ∧
      (sample 0 0 0 0 ⟨false, 0⟩ { brBase := .branchWord }).cfg.brBase = .branchWord := by decide
theorem witness_PushDecrementsThenStores :
    (sample 0 0 0 0).pfx.valid = false ∧
      WordClauses (sample 0 0 0 0) (sample 0 0 0 1) (sample 0 0 0 0 ⟨false, 0⟩ shortMemory)
        (fun s => s.sp - s.cfg.stackStep) :=
  ⟨rfl, ⟨rfl, presentWord_default _⟩, ⟨by unfold IsEven; decide, rfl⟩, rfl,
    not_presentWord_short⟩
theorem witness_PopAndReturnLoadThenIncrement :
    (sample 0 0 0 0xFFFE).pfx.valid = false ∧
      WordClauses (sample 0 0 0 0xFFFE) (sample 0 0 0 0xFFFF)
        (sample 0 0 0 0xFFFE ⟨false, 0⟩ shortMemory) (fun s => s.sp) :=
  ⟨rfl, ⟨rfl, presentWord_default _⟩, ⟨by unfold IsEven; decide, rfl⟩, rfl,
    not_presentWord_short⟩
theorem witness_InterruptFlagInstructions : State.reset.pfx.valid = false := rfl
theorem witness_HaltStopsTheMachine :
    State.reset.pfx.valid = false ∧
      ∃ t, exec (.add_rrr .r1 .r2 .r3) (sample 1 2 3 0) = .next t := ⟨rfl, _, rfl⟩
theorem witness_ReturnFromInterruptIsRefused :
    State.reset.cfg.irqModel = .none ∧ State.reset.pfx.valid = false := ⟨rfl, rfl⟩
theorem witness_ReservedAndNotImplementedWordsFault :
    decode 0x0F7F#16 = .ok (.reserved_xxx_10x 7 0x7F) ∧
      (Instr.reserved_xxx_10x 7 0x7F).implemented = false ∧
      decode 0x0C81#16 = .ok (.mov_sr 0 .r1) ∧ (Instr.mov_sr 0 .r1).implemented = false ∧
      State.reset.pfx.valid = false := ⟨rfl, rfl, rfl, rfl, rfl⟩
theorem witness_AddThenAddcIsA32BitAddition :
    (sample 0xFFFF 1 0 0).pfx.valid = false ∧
      Reg.r5 ≠ .r0 ∧ Reg.r5 ≠ .r3 ∧ Reg.r5 ≠ .r4 := by decide
theorem witness_SubThenSubcIsA32BitSubtractionWhenChained :
    (sample 0 1 0 0 ⟨false, 0⟩ { subcBorrow := .chained }).pfx.valid = false ∧
      (sample 0 1 0 0 ⟨false, 0⟩ { subcBorrow := .chained }).cfg.subcBorrow = .chained ∧
      Reg.r5 ≠ .r0 ∧ Reg.r5 ≠ .r3 ∧ Reg.r5 ≠ .r4 := by decide
theorem witness_LsrThenLsrcShifts32Bits :
    (sample 0x8001 1 0 0).pfx.valid = false ∧ Reg.r3 ≠ .r2 ∧ Reg.r4 ≠ .r3 := by decide
theorem witness_PushThenPopRestores :
    (sample 1 2 3 0).pfx.valid = false ∧
      IsEven ((sample 1 2 3 0).sp - (sample 1 2 3 0).cfg.stackStep) ∧
      PlainWord (sample 1 2 3 0).cfg ((sample 1 2 3 0).sp - (sample 1 2 3 0).cfg.stackStep) :=
  ⟨rfl, rfl, plainWord_default _⟩
theorem witness_CallThenReturnComesBack :
    IsEven ((sample 1 2 3 0).sp - (sample 1 2 3 0).cfg.stackStep) ∧
      PlainWord (sample 1 2 3 0).cfg ((sample 1 2 3 0).sp - (sample 1 2 3 0).cfg.stackStep) :=
  ⟨rfl, plainWord_default _⟩
theorem witness_AssemblerExpansionsDoWhatTheyName :
    (Instr.ret.implemented = true ∧ Instr.ret.isPrefix = false) ∧
      (sample 0x8001 2 3 0).pfx.valid = false ∧ (Instr.call 0).prefixable = true ∧
      (Instr.br_ck .gt 0x1FF).prefixable = true ∧ (Instr.lea_mr .r1 0 .r2).prefixable = true ∧
      (5 : Nat) ≤ 5 ∧ 16 ≤ 16 ∧ (0x0D#5).extractLsb' 0 5 = (0xABCD#16).extractLsb' 0 5 := by
  decide

end Sys2Proof.Tests
end

section
/-! SUPPORT. The arithmetic of words the primitives are about: bit 15 of a word as its sign
(spec/00_scope.md R7, R12), the sum and difference of `aluAdd` and `aluSub` as numbers (R12, R13),
the two readings of an immediate (R11). -/

namespace Sys2Proof.Machine

/-! The sign of a word -/

theorem msb_eq_bit15 (w : Word) : w.msb = w.getLsbD 15 := BitVec.msb_eq_getLsbD_last w

/-- Bit 15 says that the word is in the upper half of the unsigned range. -/
theorem bit15_eq_decide (w : Word) : w.getLsbD 15 = decide (32768 ≤ w.toNat) := by
  rw [← msb_eq_bit15, BitVec.msb_eq_decide]

/-- The signed value of a word: the upper half of the unsigned range lies 2^16 lower. -/
theorem word_toInt (w : Word) :
    w.toInt = if 32768 ≤ w.toNat then (w.toNat : Int) - 65536 else w.toNat := by
  rw [BitVec.toInt_eq_msb_cond, msb_eq_bit15, bit15_eq_decide]
  simp

/-! Addition -/

theorem aluAdd_r_toNat (a b : Word) (cin : Bool) :
    (aluAdd a b cin).r.toNat = (a.toNat + b.toNat + cin.toNat) % 65536 :=
  BitVec.toNat_ofNat ..

theorem aluAdd_c_iff (a b : Word) (cin : Bool) :
    (aluAdd a b cin).c = true ↔ 65536 ≤ a.toNat + b.toNat + cin.toNat := by
  simp [aluAdd]

theorem aluAdd_v_iff (a b : Word) (cin : Bool) :
    (aluAdd a b cin).v = true ↔
      a.getLsbD 15 = b.getLsbD 15 ∧ (aluAdd a b cin).r.getLsbD 15 ≠ a.getLsbD 15 := by
  simp only [aluAdd, Bool.and_eq_true, beq_iff_eq, bne_iff_ne, msb_eq_bit15]

theorem aluAdd_s (a b : Word) (cin : Bool) :
    (aluAdd a b cin).s = (aluAdd a b cin).r.getLsbD 15 := msb_eq_bit15 _

theorem aluAdd_z_iff (a b : Word) (cin : Bool) :
    (aluAdd a b cin).z = true ↔ (aluAdd a b cin).r = 0 := beq_iff_eq

/-- V after an addition is signed overflow: two addends of one sign and a result of the other, told
apart by the half of the unsigned range each lies in. -/
theorem aluAdd_v_iff_overflow (a b : Word) (cin : Bool) :
    (aluAdd a b cin).v = true ↔
      a.toInt + b.toInt + cin.toNat < -32768 ∨ 32767 < a.toInt + b.toInt + cin.toNat := by
  have hr := aluAdd_r_toNat a b cin
  have hc := cin.toNat_le
  have ha := a.isLt
  have hb := b.isLt
  simp only [aluAdd_v_iff, bit15_eq_decide, ne_eq, decide_eq_decide, word_toInt]
  split <;> split <;> omega

/-! Subtraction -/

theorem aluSub_r_toNat (a b : Word) (bin : Bool) :
    ((aluSub a b bin).r.toNat : Int) = ((a.toNat : Int) - b.toNat - bin.toNat) % 65536 := by
  have h : (aluSub a b bin).r.toNat = (((a.toNat : Int) - b.toNat - bin.toNat) % 65536).toNat :=
    BitVec.toNat_ofInt ..
  omega

theorem aluSub_c_iff (a b : Word) (bin : Bool) :
    (aluSub a b bin).c = true ↔ b.toNat + bin.toNat ≤ a.toNat := by
  simp only [aluSub, decide_eq_true_eq]
  omega

theorem aluSub_v_iff (a b : Word) (bin : Bool) :
    (aluSub a b bin).v = true ↔
      a.getLsbD 15 ≠ b.getLsbD 15 ∧ (aluSub a b bin).r.getLsbD 15 ≠ a.getLsbD 15 := by
  simp only [aluSub, Bool.and_eq_true, bne_iff_ne, msb_eq_bit15]

theorem aluSub_s (a b : Word) (bin : Bool) :
    (aluSub a b bin).s = (aluSub a b bin).r.getLsbD 15 := msb_eq_bit15 _

theorem aluSub_z_iff (a b : Word) (bin : Bool) :
    (aluSub a b bin).z = true ↔ (aluSub a b bin).r = 0 := beq_iff_eq

/-- The complement of a word and of a borrow, as the adder of R13 takes them: together they are
2^16 less the word and the borrow. -/
theorem complement_add_complement (b : Word) (bin : Bool) :
    ((~~~b).toNat : Int) + (!bin).toNat = 65536 - b.toNat - bin.toNat := by
  have hb := b.isLt
  have hn : (~~~b).toNat = 65535 - b.toNat := BitVec.toNat_not
  cases bin <;> simp only [Bool.not_false, Bool.not_true, Bool.toNat_false, Bool.toNat_true] <;>
    omega

theorem aluSub_r_eq_aluAdd (a b : Word) (bin : Bool) :
    (aluSub a b bin).r = (aluAdd a (~~~b) (!bin)).r := by
  have hn := complement_add_complement b bin
  have hs := aluSub_r_toNat a b bin
  have ha := aluAdd_r_toNat a (~~~b) (!bin)
  apply BitVec.eq_of_toNat_eq
  omega

theorem aluSub_c_eq_aluAdd (a b : Word) (bin : Bool) :
    (aluSub a b bin).c = (aluAdd a (~~~b) (!bin)).c := by
  have hn := complement_add_complement b bin
  rw [Bool.eq_iff_iff, aluSub_c_iff, aluAdd_c_iff]
  omega

/-- After a subtraction without borrow S = V is the signed comparison. With operands of one sign V
is 0 and S is the sign of a difference that fits; with operands of two signs S = V says that the
minuend is the one that is not negative. -/
theorem aluSub_s_eq_v_iff (a b : Word) :
    (aluSub a b false).s = (aluSub a b false).v ↔ b.toInt ≤ a.toInt := by
  have hr := aluSub_r_toNat a b false
  have ha := a.isLt
  have hb := b.isLt
  rw [Bool.toNat_false] at hr
  rw [Bool.eq_iff_iff, aluSub_v_iff, aluSub_s]
  simp only [bit15_eq_decide, ne_eq, decide_eq_decide, decide_eq_true_eq, word_toInt]
  split <;> split <;> omega

/-! Immediates -/

/-- Eleven bits above the low five bits of a field, as a number. -/
theorem prefixedImm_toNat {n : Nat} (imm : BitVec 11) (field : BitVec n) :
    (imm.setWidth 16 <<< 5 ||| (field.setWidth 16 &&& 0x1F#16)).toNat =
      imm.toNat * 32 + field.toNat % 32 := by
  have himm := imm.isLt
  have hlow : (field.setWidth 16 &&& 0x1F#16).toNat = field.toNat % 32 := by
    rw [BitVec.toNat_and, BitVec.toNat_setWidth]
    change field.toNat % 2 ^ 16 &&& (2 ^ 5 - 1) = _
    rw [Nat.and_two_pow_sub_one_eq_mod]
    omega
  have hhigh : (imm.setWidth 16 <<< 5).toNat = imm.toNat <<< 5 := by
    rw [BitVec.toNat_shiftLeft, BitVec.toNat_setWidth, Nat.shiftLeft_eq, Nat.shiftLeft_eq]
    omega
  rw [BitVec.toNat_or, hlow, hhigh,
    ← Nat.shiftLeft_add_eq_or_of_lt (show field.toNat % 32 < 2 ^ 5 by omega), Nat.shiftLeft_eq]

theorem extend_zext_toNat {n : Nat} (field : BitVec n) (hn : n ≤ 16) :
    (extend .zext field).toNat = field.toNat :=
  BitVec.toNat_setWidth_of_le hn

theorem extend_sext_toInt {n : Nat} (field : BitVec n) (hn : n ≤ 16) :
    (extend .sext field).toInt = field.toInt :=
  BitVec.toInt_signExtend_of_le hn

end Sys2Proof.Machine

/-! SUPPORT. The words of format R1's three-register rows and of format R2 below the conditional
sets and reserved words, decoded through the decoder of their format (spec/30_encoding.md R65). -/

namespace Sys2Proof.Laws

/-- Opcode bits 001 at the top: format R1 or one of the two J rows that share it. -/
theorem decode_formatR1 (op : BitVec 7) (rn rs rd : BitVec 3) (h : op.extractLsb' 4 3 = 0b001#3) :
    decode (formatR1 op rn rs rd) = decodeR1 (formatR1 op rn rs rd) := by
  have hop : (op.extractLsb' 2 5).toNat / 4 = 1 := by
    have htop : (op.extractLsb' 4 3).toNat = 1 := congrArg BitVec.toNat h
    simp only [BitVec.extractLsb'_toNat, Nat.shiftRight_eq_div_pow] at htop ⊢
    omega
  have hc : (op.extractLsb' 2 5).toNat = 4 ∨ (op.extractLsb' 2 5).toNat = 5 ∨
      (op.extractLsb' 2 5).toNat = 6 ∨ (op.extractLsb' 2 5).toNat = 7 := by omega
  rcases hc with hc | hc | hc | hc <;> simp [decode, hc]

/-- Opcode bits 0000 at the top: format R2. -/
theorem decode_formatR2 (op : BitVec 10) (rs rd : BitVec 3) (h : op.extractLsb' 6 4 = 0b0000#4) :
    decode (formatR2 op rs rd) = decodeR2 (formatR2 op rs rd) := by
  apply decode_eq_decodeR2
  rw [← extract_extract _ 6 10 6 4 (by decide), formatR2_op, h]
  rfl

@[simp] theorem decode_and_kr (k : BitVec 8) (rd : Reg) :
    decode (formatI2 0b01110#5 k rd.bits) = .ok (.and_kr rd k) := by
  simp [decode]

@[simp] theorem decode_or_rrr (rs rn rd : Reg) :
    decode (formatR1 0b0010100#7 rn.bits rs.bits rd.bits) = .ok (.or_rrr rs rn rd) := by
  rw [decode_formatR1 _ _ _ _ rfl]
  simp [decodeR1]

@[simp] theorem decode_and_rrr (rs rn rd : Reg) :
    decode (formatR1 0b0010101#7 rn.bits rs.bits rd.bits) = .ok (.and_rrr rs rn rd) := by
  rw [decode_formatR1 _ _ _ _ rfl]
  simp [decodeR1]

@[simp] theorem decode_xor_rrr (rs rn rd : Reg) :
    decode (formatR1 0b0010110#7 rn.bits rs.bits rd.bits) = .ok (.xor_rrr rs rn rd) := by
  rw [decode_formatR1 _ _ _ _ rfl]
  simp [decodeR1]

@[simp] theorem decode_not_rr (rs rd : Reg) :
    decode (formatR2 0b0000110001#10 rs.bits rd.bits) = .ok (.not_rr rs rd) := by
  rw [decode_formatR2 _ _ _ rfl]
  simp [decodeR2, decodeShifts]

end Sys2Proof.Laws
end

section
/-! PROOFS. The statements about the primitives and the logic instructions (spec/00_scope.md R11 to
R14). -/

namespace Sys2Proof.Claims

open Sys2Proof.Machine Sys2Proof.Laws

/-- Settles O21: each flag by the lemma that says when it is 1. -/
theorem additionResultAndFlags : Obligations.AdditionResultAndFlags := fun a b cin =>
  ⟨aluAdd_r_toNat a b cin, aluAdd_c_iff a b cin, aluAdd_v_iff a b cin, aluAdd_s a b cin,
    aluAdd_z_iff a b cin, aluAdd_v_iff_overflow a b cin⟩

/-- Settles O22: each flag by the lemma that says when it is 1, and the adder of R13 by the
complement of the subtrahend and the borrow. -/
theorem subtractionResultAndFlags : Obligations.SubtractionResultAndFlags := by
  intro a b bin
  refine ⟨aluSub_r_toNat a b bin, aluSub_c_iff a b bin, aluSub_v_iff a b bin, aluSub_s a b bin,
    aluSub_z_iff a b bin, aluSub_r_eq_aluAdd a b bin, aluSub_c_eq_aluAdd a b bin, ?_⟩
  rintro rfl
  exact aluSub_s_eq_v_iff a b

/-- Settles O25: by whether PFX is valid, then by the extension. -/
theorem effectiveImmediateByPrefixOrExtension :
    Obligations.EffectiveImmediateByPrefixOrExtension := by
  intro s n field ext _ hn
  refine ⟨fun hp => ?_, ?_, ?_⟩
  · rw [effImm_prefixed s field ext hp, prefixedImm_toNat]
  · rintro hp rfl
    rw [effImm_unprefixed s field _ hp, extend_zext_toNat field hn]
  · rintro hp rfl
    rw [effImm_unprefixed s field _ hp, extend_sext_toInt field hn]

/-- The word after the instruction is at PC + 1: the spec has one `PC_UNIT` (R23). -/
theorem next_eq_pc_add_one (s : State) : s.next = s.pc + 1 := by
  unfold State.next
  cases s.cfg.pcUnit
  rfl

/-- Retiring advances past the instruction, whatever else it did, if it left PC alone. -/
theorem advanced_retire {s t : State} (hpc : t.pc = s.pc) : Advanced s t.retire := by
  refine ⟨?_, rfl⟩
  rw [retire_pc, next_eq_pc_add_one, hpc]

/-- What every logic instruction ends with (R14): the result in Rd, the flags from it, retire. -/
theorem writesRegLogic_retire (s : State) (rd : Reg) (r : Word) :
    WritesRegLogic s (.next ((s.setReg rd r).setLogic r).retire) rd r := by
  refine ⟨_, rfl, ?result, ?regs, rfl, rfl, ?sign, ?zero, fun _ => rfl, ⟨rfl, rfl, rfl, rfl⟩,
    advanced_retire rfl⟩
  case result => exact setReg_reg_self s rd r
  case regs => exact fun q hq => setReg_reg_other s r hq
  case sign => exact msb_eq_bit15 r
  case zero => exact beq_eq_decide r 0

/-- The same for the ones without an immediate, which complete where PFX is not valid (R70). -/
theorem writesRegLogic_unlessPrefixed (s : State) (rd : Reg) (r : Word)
    (hp : s.pfx.valid = false) :
    WritesRegLogic s (s.unlessPrefixed (.next ((s.setReg rd r).setLogic r).retire)) rd r := by
  rw [unlessPrefixed_of_not s _ hp]
  exact writesRegLogic_retire s rd r

/-- Settles O39: the five instructions differ in the word and the result only. -/
theorem logicInstructions : Obligations.LogicInstructions := by
  intro s rs rn rd k
  refine ⟨decode_and_kr k rd, writesRegLogic_retire s rd _, decode_or_rrr rs rn rd,
    decode_and_rrr rs rn rd, decode_xor_rrr rs rn rd, decode_not_rr rs rd, fun hp => ?_⟩
  exact ⟨writesRegLogic_unlessPrefixed s rd _ hp, writesRegLogic_unlessPrefixed s rd _ hp,
    writesRegLogic_unlessPrefixed s rd _ hp, writesRegLogic_unlessPrefixed s rd _ hp⟩

end Sys2Proof.Claims
end

section
/-! SUPPORT. What each condition of R28 reads of the flags. -/

namespace Sys2Proof.Machine

theorem condHolds_eq_iff (f : Status) : condHolds .eq f = true ↔ f.z = true := Iff.rfl

theorem condHolds_ne_iff (f : Status) : condHolds .ne f = true ↔ f.z = false := by
  simp [condHolds]

theorem condHolds_uge_iff (f : Status) : condHolds .uge f = true ↔ f.c = true := Iff.rfl

theorem condHolds_ult_iff (f : Status) : condHolds .ult f = true ↔ f.c = false := by
  simp [condHolds]

theorem condHolds_ge_iff (f : Status) : condHolds .ge f = true ↔ f.s = f.v := by
  simp [condHolds]

theorem condHolds_lt_iff (f : Status) : condHolds .lt f = true ↔ f.s ≠ f.v := by
  simp [condHolds]

theorem condHolds_ugt_iff (f : Status) : condHolds .ugt f = true ↔ f.c = true ∧ f.z = false := by
  simp [condHolds]

theorem condHolds_gt_iff (f : Status) : condHolds .gt f = true ↔ f.s = f.v ∧ f.z = false := by
  simp [condHolds]

/-- A difference without borrow is zero only of equal words. -/
theorem aluSub_z_iff_eq (a b : Word) : (aluSub a b false).z = true ↔ a = b := by
  have hr := aluSub_r_toNat a b false
  have ha := a.isLt
  have hb := b.isLt
  rw [Bool.toNat_false] at hr
  rw [aluSub_z_iff, ← BitVec.toNat_inj, ← BitVec.toNat_inj]
  change _ = 0 ↔ _
  omega

end Sys2Proof.Machine
end

section
/-! SUPPORT. What an instruction can do, said once: each update it makes is one that the tables of
R22, R23, R26, R40 and R76 allow it. The statements about what instructions leave alone follow from
`exec_confined` by induction on the updates. -/

namespace Sys2Proof.Claims

open Sys2Proof.Machine

/-- `u` comes from `s` by updates that the tables allow instruction `i`, before it ends. -/
inductive Writes (i : Instr) (s : State) : State → Prop
  | start : Writes i s s
  | setReg {u : State} {rd : Reg} (v : Word) (h : destination i = some rd) (w : Writes i s u) :
      Writes i s (u.setReg rd v)
  | setSp {u : State} (v : Word) (h : writesSp i = true) (w : Writes i s u) :
      Writes i s (u.setSp v)
  | setArith {u : State} (x : Alu) (h : writesConditionFlags i = true) (w : Writes i s u) :
      Writes i s (u.setArith x)
  | setLogic {u : State} (r : Word) (h : writesConditionFlags i = true) (w : Writes i s u) :
      Writes i s (u.setLogic r)
  | setShift {u : State} (c : Bool) (h : writesConditionFlags i = true) (w : Writes i s u) :
      Writes i s (u.setShift c)
  | setInterrupt {u : State} (b : Bool) (h : i = .dint ∨ i = .eint) (w : Writes i s u) :
      Writes i s (u.setInterrupt b)
  | setByte {u : State} (a : Word) (b : Byte) (h : storesToMemory i = true) (w : Writes i s u) :
      Writes i s (u.setByte a b)
  | note {u : State} (l : List Word) (x : RegionAccess) (w : Writes i s u) :
      Writes i s (u.note l x)

/-- `t` is a state in which instruction `i`, started in `s`, may end. -/
inductive Ends (i : Instr) (s : State) : State → Prop
  | retire {u : State} (w : Writes i s u) : Ends i s u.retire
  | jump {u : State} (target : Word) (h : assignsPc i = true) (w : Writes i s u) :
      Ends i s (u.jump target)
  | latch (k : BitVec 11) (h : i = .pfix_k k) :
      Ends i s { s with pc := s.next, pfx := { valid := true, imm := k } }
  | halt (h : i = .halt) : Ends i s { s.retire with run := .halted }

/-- An answer to `i` in `s` that, where it is a next state, is one `i` may end in. -/
def Confined (i : Instr) (s : State) (o : Result) : Prop :=
  ∀ t, o = .next t → Ends i s t

section
variable {i : Instr} {s : State}

/-! What each shared operation may write -/

theorem writes_of_readByte {a : Word} {r : Byte × State} (h : s.readByte a = .ok r) :
    Writes i s r.2 := by
  obtain ⟨-, rfl⟩ := (readByte_eq_ok s a r).1 h
  exact .note _ _ .start

theorem writes_of_readWord {a : Word} {r : Word × State} (h : s.readWord a = .ok r) :
    Writes i s r.2 := by
  obtain ⟨b, -, -, rfl⟩ := (readWord_eq_ok s a r).1 h
  exact .note _ _ .start

theorem writes_of_writeByte {u t : State} {a v : Word} (hi : storesToMemory i = true)
    (w : Writes i s u) (h : u.writeByte a v = .ok t) : Writes i s t := by
  obtain ⟨-, rfl⟩ := (writeByte_eq_ok u a v t).1 h
  exact .note _ _ (.setByte _ _ hi w)

theorem writes_of_writeWord {u t : State} {a v : Word} (hi : storesToMemory i = true)
    (w : Writes i s u) (h : u.writeWord a v = .ok t) : Writes i s t := by
  obtain ⟨b, -, -, rfl⟩ := (writeWord_eq_ok u a v t).1 h
  exact .note _ _ (.setByte _ _ hi (.setByte _ _ hi w))

theorem writes_of_pushWord {t : State} {v : Word} (hi : storesToMemory i = true)
    (hsp : writesSp i = true) (h : s.pushWord v = .ok t) : Writes i s t :=
  writes_of_writeWord hi (.setSp _ hsp .start) h

/-! The shapes of an answer -/

theorem confined_retire {u : State} (w : Writes i s u) : Confined i s (.next u.retire) := by
  rintro t ⟨⟩
  exact .retire w

theorem confined_jump {u : State} {target : Word} (hpc : assignsPc i = true)
    (w : Writes i s u) : Confined i s (.next (u.jump target)) := by
  rintro t ⟨⟩
  exact .jump target hpc w

theorem confined_refused (r : Refusal) : Confined i s (.refused r) :=
  fun _ h => nomatch h

theorem confined_unlessPrefixed {o : Result} (h : Confined i s o) :
    Confined i s (s.unlessPrefixed o) :=
  fun t ht => h t ((unlessPrefixed_eq_next s o t).1 ht).2

theorem confined_andThen {α : Type} {x : Except Stop α} {k : α → Result}
    (h : ∀ v, x = .ok v → Confined i s (k v)) : Confined i s (andThen x k) := by
  intro t ht
  obtain ⟨v, hx, hk⟩ := (andThen_eq_next x k t).1 ht
  exact h v hx t hk

theorem confined_illegal (w : Word) : Confined i s (s.illegal w) :=
  confined_unlessPrefixed fun _ h => nomatch h

/-! The instructions that end by retiring, by what they write -/

theorem confined_reg {rd : Reg} {v : Word} (hd : destination i = some rd) :
    Confined i s (.next (s.setReg rd v).retire) :=
  confined_retire (.setReg v hd .start)

theorem confined_arith {x : Alu} (hf : writesConditionFlags i = true) :
    Confined i s (.next (s.setArith x).retire) :=
  confined_retire (.setArith x hf .start)

theorem confined_regArith {rd : Reg} {v : Word} {x : Alu} (hd : destination i = some rd)
    (hf : writesConditionFlags i = true) :
    Confined i s (.next ((s.setReg rd v).setArith x).retire) :=
  confined_retire (.setArith x hf (.setReg v hd .start))

theorem confined_regLogic {rd : Reg} {v r : Word} (hd : destination i = some rd)
    (hf : writesConditionFlags i = true) :
    Confined i s (.next ((s.setReg rd v).setLogic r).retire) :=
  confined_retire (.setLogic r hf (.setReg v hd .start))

theorem confined_shiftRight {rs rd : Reg} {top : Bool} (hd : destination i = some rd)
    (hf : writesConditionFlags i = true) : Confined i s (s.shiftRight rs rd top) :=
  confined_unlessPrefixed (confined_retire (.setShift _ hf (.setReg _ hd .start)))

theorem confined_sp {v : Word} (hsp : writesSp i = true) :
    Confined i s (.next (s.setSp v).retire) :=
  confined_retire (.setSp v hsp .start)

theorem confined_interrupt {b : Bool} (hi : i = .dint ∨ i = .eint) :
    Confined i s (.next (s.setInterrupt b).retire) :=
  confined_retire (.setInterrupt b hi .start)

theorem confined_loadWord {ea : Word} {rd : Reg} (hd : destination i = some rd) :
    Confined i s (s.loadWord ea rd) :=
  confined_andThen fun _ hr => confined_retire (.setReg _ hd (writes_of_readWord hr))

theorem confined_loadByte {ea : Word} {ext : Ext} {rd : Reg} (hd : destination i = some rd) :
    Confined i s (s.loadByte ea ext rd) :=
  confined_andThen fun _ hr => confined_retire (.setReg _ hd (writes_of_readByte hr))

theorem confined_storeWord {ea v : Word} (hi : storesToMemory i = true) :
    Confined i s (s.storeWord ea v) :=
  confined_andThen fun _ hu => confined_retire (writes_of_writeWord hi .start hu)

theorem confined_storeByte {ea v : Word} (hi : storesToMemory i = true) :
    Confined i s (s.storeByte ea v) :=
  confined_andThen fun _ hu => confined_retire (writes_of_writeByte hi .start hu)

/-! The instructions that assign PC -/

theorem confined_callTo {target : Word} (hpc : assignsPc i = true)
    (hi : storesToMemory i = true) (hsp : writesSp i = true) :
    Confined i s (s.callTo target) :=
  confined_andThen fun _ hu => confined_jump hpc (writes_of_pushWord hi hsp hu)

theorem confined_branch (cc : Cond) (a : BitVec 9) :
    Confined (.br_ck cc a) s (execBrCk cc a s) := by
  unfold execBrCk
  split
  · exact confined_jump rfl .start
  · exact confined_retire .start

end

/-- Every instruction makes only the updates that the tables allow it. -/
theorem exec_confined (i : Instr) (s : State) : Confined i s (exec i s) := by
  cases i with
  | pfix_k k => exact confined_unlessPrefixed fun t => by rintro ⟨⟩; exact .latch k rfl
  | lea_mr | mov_kr | lea_qr => exact confined_reg rfl
  | movw_mr | movw_ar | movw_qr => exact confined_loadWord rfl
  | movzb_mr | movsb_mr | movsb_ar | movsb_qr => exact confined_loadByte rfl
  | movw_rm | movw_ra | movw_rq => exact confined_storeWord rfl
  | movb_rm | movb_ra | movb_rq => exact confined_storeByte rfl
  | cmp_rk => exact confined_arith rfl
  | add_kr | sub_kr => exact confined_regArith rfl rfl
  | and_kr => exact confined_regLogic rfl rfl
  | br_ck cc a => exact confined_branch cc a
  | add_kq => exact confined_sp rfl
  | jmp_k => exact confined_jump rfl .start
  | call => exact confined_callTo rfl rfl rfl
  | cmp_rr | cmpc_rr => exact confined_unlessPrefixed (confined_arith rfl)
  | sub_rrr | subc_rrr | adc_rrr | add_rrr | neg_rr =>
    exact confined_unlessPrefixed (confined_regArith rfl rfl)
  | or_rrr | and_rrr | xor_rrr | not_rr =>
    exact confined_unlessPrefixed (confined_regLogic rfl rfl)
  | movw_nr => exact confined_unlessPrefixed (confined_loadWord rfl)
  | movzb_nr | movsb_nr => exact confined_unlessPrefixed (confined_loadByte rfl)
  | movw_rn => exact confined_unlessPrefixed (confined_storeWord rfl)
  | movb_rn => exact confined_unlessPrefixed (confined_storeByte rfl)
  | sel_crrr | set_cr | mov_rr | zext_rr | sext_rr | bswap_rr | sextw_rr =>
    exact confined_unlessPrefixed (confined_reg rfl)
  | mov_rq => exact confined_unlessPrefixed (confined_sp rfl)
  | movw_pr => exact confined_unlessPrefixed (confined_andThen fun _ _ => confined_reg rfl)
  | lsr_rr | lsrc_rr | asr_rr => exact confined_shiftRight rfl rfl
  | jmp_r => exact confined_unlessPrefixed (confined_jump rfl .start)
  | call_r => exact confined_unlessPrefixed (confined_callTo rfl rfl rfl)
  | push_r =>
    exact confined_unlessPrefixed (confined_andThen fun _ hu =>
      confined_retire (writes_of_pushWord rfl rfl hu))
  | pop_r =>
    exact confined_unlessPrefixed (confined_andThen fun _ hr =>
      confined_retire (.setSp _ rfl (.setReg _ rfl (writes_of_readWord hr))))
  | ret =>
    exact confined_unlessPrefixed (confined_andThen fun _ hr =>
      confined_jump rfl (.setSp _ rfl (writes_of_readWord hr)))
  | reti => exact confined_unlessPrefixed (confined_refused _)
  | dint => exact confined_unlessPrefixed (confined_interrupt (.inl rfl))
  | eint => exact confined_unlessPrefixed (confined_interrupt (.inr rfl))
  | halt => exact confined_unlessPrefixed fun t => by rintro ⟨⟩; exact .halt rfl
  | reserved_110_000 | reserved_011_001 | reserved_100_001 | reserved_111_001
  | reserved_100_010 | reserved_101_010 | reserved_101_011 | reserved_110_011
  | reserved_111_011 | reserved_xxx_10x | mov_sr | mov_rs => exact confined_illegal _

theorem ends_of_exec {i : Instr} {s t : State} (h : exec i s = .next t) : Ends i s t :=
  exec_confined i s t h

end Sys2Proof.Claims
end

section
/-! SUPPORT. What every instruction leaves alone, one field at a time: by induction on the updates it
makes. A case that would write the field is one the tables do not allow the instruction. -/

namespace Sys2Proof.Claims

open Sys2Proof.Machine

section
variable {i : Instr} {s t u : State}

theorem Writes.pm_eq (w : Writes i s u) : u.pm = s.pm := by
  induction w <;> simp [*]

theorem Writes.cfg_eq (w : Writes i s u) : u.cfg = s.cfg := by
  induction w <;> simp [*]

theorem Writes.pc_eq (w : Writes i s u) : u.pc = s.pc := by
  induction w <;> simp [*]

/-- A byte is stored at a 16-bit address, so inside the address space. -/
theorem Writes.dm_wf (w : Writes i s u) (hs : s.dm.wf = true) : u.dm.wf = true := by
  induction w with
  | start => exact hs
  | setByte a b _ _ ih => exact memory_wf_write _ b a.isLt ih
  | _ => simpa

theorem Writes.sp_eq (w : Writes i s u) (hi : writesSp i = false) : u.sp = s.sp := by
  induction w with
  | setSp _ h => simp [hi] at h
  | _ => simp [*]

theorem Writes.interruptFlag_eq (w : Writes i s u) (hd : i ≠ .dint) (he : i ≠ .eint) :
    u.sr.i = s.sr.i := by
  induction w with
  | setInterrupt _ h => simp [hd, he] at h
  | _ => simp [*]

theorem Writes.conditionFlags_eq (w : Writes i s u) (hi : writesConditionFlags i = false) :
    u.sr.v = s.sr.v ∧ u.sr.s = s.sr.s ∧ u.sr.c = s.sr.c ∧ u.sr.z = s.sr.z := by
  induction w with
  | setArith _ h | setLogic _ h | setShift _ h => simp [hi] at h
  | _ => simp [*]

theorem Writes.reg_eq (w : Writes i s u) {q : Reg} (hq : destination i ≠ some q) :
    u.reg q = s.reg q := by
  induction w with
  | setReg v hd _ ih =>
    rw [setReg_reg_other, ih]
    rintro rfl
    exact hq hd
  | _ => simp [*]

/-- Ending an instruction touches PC, the latch and RUN only. -/
theorem Ends.exists_writes (e : Ends i s t) :
    ∃ u pc pfx run, Writes i s u ∧ t = { u with pc := pc, pfx := pfx, run := run } := by
  cases e with
  | retire w | jump _ _ w => exact ⟨_, _, _, _, w, rfl⟩
  | latch | halt => exact ⟨s, _, _, _, .start, rfl⟩

theorem exec_writes (h : exec i s = .next t) :
    ∃ u pc pfx run, Writes i s u ∧ t = { u with pc := pc, pfx := pfx, run := run } :=
  (ends_of_exec h).exists_writes

theorem exec_keeps_program (h : exec i s = .next t) : t.pm = s.pm ∧ t.cfg = s.cfg := by
  obtain ⟨u, _, _, _, w, rfl⟩ := exec_writes h
  exact ⟨w.pm_eq, w.cfg_eq⟩

theorem exec_keeps_dm_wf (h : exec i s = .next t) (hs : s.dm.wf = true) : t.dm.wf = true := by
  obtain ⟨u, _, _, _, w, rfl⟩ := exec_writes h
  exact w.dm_wf hs

/-- Only `pfix_k` ends with its immediate latched; every other end uses the latch up. -/
theorem Ends.eq_pfix_k (e : Ends i s t) (ht : t.pfx.valid = true) : ∃ k, i = .pfix_k k := by
  cases e with
  | latch k hk => exact ⟨k, hk⟩
  | retire | jump | halt => simp at ht

theorem exec_pfix_k_pfx {k : BitVec 11} (h : exec (.pfix_k k) s = .next t) :
    t.pfx = { valid := true, imm := k } := by
  obtain ⟨-, ⟨⟩⟩ := (unlessPrefixed_eq_next s _ t).1 h
  rfl

end

end Sys2Proof.Claims
end

section
/-! PROOFS. The statements about the state and the step (spec/10_state.md R20 to R32). -/

namespace Sys2Proof.Claims

open Sys2Proof.Machine

/-- Settles O9: a halted machine keeps its state, and no instruction writes program memory or the
parameters. -/
theorem noStepChangesProgramMemory : Obligations.NoStepChangesProgramMemory := by
  intro s t h
  rcases (step_eq_next s t).1 h with ⟨-, rfl⟩ | ⟨-, -, i, -, he⟩
  · exact ⟨rfl, rfl⟩
  · exact exec_keeps_program he

/-- Settles O10: stores stay inside the address space, and program memory is what it was. -/
theorem stepKeepsMemoriesCanonical : Obligations.StepKeepsMemoriesCanonical := by
  intro s t hs h
  rcases (step_eq_next s t).1 h with ⟨-, rfl⟩ | ⟨-, -, i, -, he⟩
  · exact hs
  · obtain ⟨hpm, -⟩ := exec_keeps_program he
    simp only [State.wf, Bool.and_eq_true, hpm] at hs ⊢
    obtain ⟨⟨hdm, hwf⟩, homits⟩ := hs
    exact ⟨⟨exec_keeps_dm_wf he hdm, hwf⟩, homits⟩

/-- Settles O13: of the ways an instruction may end, only that of `pfix_k` leaves the latch set. -/
theorem prefixReachesExactlyTheNextInstruction :
    Obligations.PrefixReachesExactlyTheNextInstruction := by
  intro s t hr h
  rcases (step_eq_next s t).1 h with ⟨hh, -⟩ | ⟨-, -, i, hd, he⟩
  · simp [hr] at hh
  have latched : ∀ k, i = .pfix_k k → t.pfx = { valid := true, imm := k } := by
    rintro k rfl
    exact exec_pfix_k_pfx he
  simp only [hd, Except.ok.injEq]
  refine ⟨⟨(ends_of_exec he).eq_pfix_k, ?_⟩, fun k hk => by rw [latched k hk]⟩
  rintro ⟨k, hk⟩
  rw [latched k hk]

/-- Settles O14: the one update that writes I is that of `dint` and `eint`. -/
theorem onlyDintAndEintChangeTheInterruptFlag :
    Obligations.OnlyDintAndEintChangeTheInterruptFlag := by
  intro i s t h hd he
  obtain ⟨u, _, _, _, w, rfl⟩ := exec_writes h
  exact w.interruptFlag_eq hd he

/-- Settles O15: the updates that write V, S, C and Z are those of the listed instructions. -/
theorem onlyListedInstructionsChangeTheConditionFlags :
    Obligations.OnlyListedInstructionsChangeTheConditionFlags := by
  intro i s t h hi
  obtain ⟨u, _, _, _, w, rfl⟩ := exec_writes h
  exact w.conditionFlags_eq hi

/-- Settles O16: the one update that writes SP is that of the listed instructions. -/
theorem onlyListedInstructionsChangeTheStackPointer :
    Obligations.OnlyListedInstructionsChangeTheStackPointer := by
  intro i s t h hi
  obtain ⟨u, _, _, _, w, rfl⟩ := exec_writes h
  exact w.sp_eq hi

/-- Settles O17: by how the instruction ends; a branch not taken retires. -/
theorem onlyListedInstructionsAssignTheProgramCounter :
    Obligations.OnlyListedInstructionsAssignTheProgramCounter := by
  intro i s t h
  refine ⟨fun hi => ?_, ?_⟩
  · cases ends_of_exec h with
    | retire w => rw [retire_pc, next_eq_pc_add_one, w.pc_eq]
    | jump _ hpc => simp [hi] at hpc
    | latch | halt => exact next_eq_pc_add_one s
  · rintro cc a rfl hcc
    simp only [exec, execBrCk, hcc, Bool.false_eq_true, if_false, Host.Outcome.next.injEq] at h
    rw [← h, retire_pc, next_eq_pc_add_one]

/-- Settles O19: every register an instruction writes is its destination. -/
theorem onlyTheDestinationRegisterChanges : Obligations.OnlyTheDestinationRegisterChanges := by
  intro i s t h q hq
  obtain ⟨u, _, _, _, w, rfl⟩ := exec_writes h
  exact w.reg_eq hq

/-- Settles O24: the flags of the difference are those relations (Z equality, C the unsigned and
S = V the signed comparison), and each condition reads them. -/
theorem compareAnswersEveryRelation : Obligations.CompareAnswersEveryRelation := by
  intro s t rs rn h
  obtain ⟨-, ⟨⟩⟩ := (unlessPrefixed_eq_next s _ t).1 h
  have hz := aluSub_z_iff_eq (s.reg rs) (s.reg rn)
  have hc := aluSub_c_iff (s.reg rs) (s.reg rn) false
  have hsv := aluSub_s_eq_v_iff (s.reg rs) (s.reg rn)
  rw [Bool.toNat_false, Nat.add_zero] at hc
  rw [retire_sr, setArith_sr]
  have hnz : (aluSub (s.reg rs) (s.reg rn) false).z = false ↔ s.reg rs ≠ s.reg rn := by
    rw [← Bool.not_eq_true, hz]
  have hnc : (aluSub (s.reg rs) (s.reg rn) false).c = false ↔
      (s.reg rs).toNat < (s.reg rn).toNat := by
    rw [← Bool.not_eq_true, hc, Nat.not_le]
  refine ⟨hz, (condHolds_ne_iff _).trans hnz, hc, (condHolds_ult_iff _).trans hnc,
    (condHolds_ge_iff _).trans hsv, (condHolds_lt_iff _).trans (hsv.not.trans Int.not_le),
    (condHolds_ugt_iff _).trans ?unsigned, (condHolds_gt_iff _).trans ?signed⟩
  case unsigned =>
    rw [hc, hnz, ne_eq, ← BitVec.toNat_inj]
    omega
  case signed =>
    rw [hsv, hnz, ne_eq, ← BitVec.toInt_inj]
    omega

/-- Settles O1: seventeen words, each decoded. -/
theorem decodesWordsOfEveryFormat : Obligations.DecodesWordsOfEveryFormat :=
  ⟨rfl, rfl, rfl, rfl, rfl, rfl, rfl, rfl, rfl, rfl, rfl, rfl, rfl, rfl, rfl, rfl, rfl⟩

/-- Settles O6: the fetch answers the word at PC, which exists. -/
theorem stepRunsTheDecodedInstruction : Obligations.StepRunsTheDecodedInstruction := by
  intro s i hr hp hd
  have hf : s.fetch = .ok (s.pmWord s.pc) := (pmRead_eq_ok s s.pc _).2 ⟨hp, rfl⟩
  simp [step, hr, hf, hd]

/-- Settles O8: the first of the two ways a step answers a next state. -/
theorem haltedMachineKeepsItsState : Obligations.HaltedMachineKeepsItsState :=
  fun s hr => (step_eq_next s s).2 (.inl ⟨hr, rfl⟩)

/-- Settles O23: each field by what its condition reads. -/
theorem conditionsReadTheFlags : Obligations.ConditionsReadTheFlags := by
  intro f
  refine ⟨condHolds_eq_iff f, condHolds_ne_iff f, condHolds_uge_iff f, condHolds_ult_iff f,
    condHolds_ge_iff f, condHolds_lt_iff f, condHolds_ugt_iff f, condHolds_gt_iff f, ?ule, ?le⟩
  case ule =>
    rw [← Bool.not_eq_true, condHolds_ugt_iff, not_and_or, Bool.not_eq_true, Bool.not_eq_false]
  case le =>
    rw [← Bool.not_eq_true, condHolds_gt_iff, not_and_or, Bool.not_eq_false]

end Sys2Proof.Claims
end

section
/-! SUPPORT. Data memory in the terms of the statements (spec/20_memory.md R41 to R44, R48): what
`IsEven`, `Present` and `InRegion` are to the machine, what each access answers where its bytes
exist, and what it leaves unchanged. -/

namespace Sys2Proof.Machine

/-- The two bytes of `v` at `a` and the address after it, by the byte order (R41): what a word store
does to DM (`Claims.writeWord_of_present`). -/
def State.setWord (s : State) (a v : Word) : State :=
  (s.setByte a (firstByte s.cfg.endian v)).setByte (a + 1) (secondByte s.cfg.endian v)

@[simp] theorem setWord_cfg (s : State) (a v : Word) : (s.setWord a v).cfg = s.cfg := rfl

@[simp] theorem setWord_dmByte_first (s : State) (a v : Word) :
    (s.setWord a v).dmByte a = firstByte s.cfg.endian v := by
  rw [State.setWord, setByte_dmByte, if_neg (word_ne_succ a), setByte_dmByte, if_pos rfl]

@[simp] theorem setWord_dmByte_second (s : State) (a v : Word) :
    (s.setWord a v).dmByte (a + 1) = secondByte s.cfg.endian v := by
  rw [State.setWord, setByte_dmByte, if_pos rfl]

end Sys2Proof.Machine

namespace Sys2Proof.Claims

open Sys2Proof.Machine

section
variable {c : Config} {s u : State} {a v : Word}

/-! Addresses -/

theorem isEven_iff : IsEven a ↔ a.getLsbD 0 = false := by
  have h0 : a.getLsbD 0 = decide (a.toNat % 2 = 1) := a.toNat.testBit_zero
  rw [IsEven, h0, decide_eq_false_iff_not]
  omega

theorem not_isEven_iff : ¬IsEven a ↔ a.getLsbD 0 = true := by
  rw [isEven_iff, Bool.not_eq_false]

theorem dataStop_eq_none_iff : dataStop c a = none ↔ Present c a := by
  simp [dataStop, Present]

theorem wordStop_eq_none_iff : wordStop c a = none ↔ PresentWord c a := by
  unfold PresentWord
  rw [← dataStop_eq_none_iff, ← dataStop_eq_none_iff]
  cases h : dataStop c a <;> simp [wordStop, h]

theorem regionOf_eq_none_iff : regionOf c a = none ↔ ¬InRegion c a := by
  rw [regionOf_eq_none]
  simp only [InRegion, Holds, not_exists, not_and]

theorem regionOf_isSome_iff : (regionOf c a).isSome = true ↔ InRegion c a := by
  rw [← not_iff_not, ← regionOf_eq_none_iff, Bool.not_eq_true, Option.isSome_eq_false_iff,
    Option.isNone_iff_eq_none]

theorem PlainWord.present (h : PlainWord c a) : PresentWord c a := ⟨h.1.1, h.2.1⟩

/-! What the regions see -/

/-- Noting an access to the bytes `l` adds it to what regions have seen exactly when one of them
lies in a region, and changes nothing else. -/
theorem machineKeptBy_note {l : List Word} {x : RegionAccess} {touches : Prop}
    (hu : MachineKept s u) (ht : touches ↔ ∃ b ∈ l, InRegion s.cfg b) :
    MachineKeptBy x touches s (u.note l x) := by
  obtain ⟨hpm, hrun, hcfg, hlog⟩ := hu
  have hseen : (l.any fun b => (regionOf u.cfg b).isSome) = true ↔ touches := by
    simp only [List.any_eq_true, regionOf_isSome_iff, hcfg, ht]
  refine ⟨hpm, hrun, hcfg, fun h => ?_, fun h => ?_⟩
  · rw [note_regionLog, if_pos (hseen.2 h), hlog]
  · rw [note_regionLog, if_neg (mt hseen.1 h), hlog]

theorem machineKept_refl (s : State) : MachineKept s s := ⟨rfl, rfl, rfl, rfl⟩

theorem machineKept_setByte (s : State) (a : Word) (b : Byte) : MachineKept s (s.setByte a b) :=
  ⟨rfl, rfl, rfl, rfl⟩

theorem machineKept_setWord (s : State) (a v : Word) : MachineKept s (s.setWord a v) :=
  ⟨rfl, rfl, rfl, rfl⟩

theorem machineKeptBy_note_byte {x : RegionAccess} (hu : MachineKept s u) :
    MachineKeptBy x (InRegion s.cfg a) s (u.note [a] x) :=
  machineKeptBy_note hu (by simp)

theorem machineKeptBy_note_word {x : RegionAccess} (hu : MachineKept s u) :
    MachineKeptBy x (WordInRegion s.cfg a) s (u.note [a, a + 1] x) :=
  machineKeptBy_note hu (by simp [WordInRegion])

theorem note_of_plain {x : RegionAccess} (h : Plain s.cfg a) : s.note [a] x = s :=
  note_of_no_region s _ x (by simpa [regionOf_eq_none_iff] using h.2)

theorem note_of_plainWord {x : RegionAccess} (h : PlainWord s.cfg a) :
    s.note [a, a + 1] x = s :=
  note_of_no_region s _ x (by simpa [regionOf_eq_none_iff] using ⟨h.1.2, h.2.2⟩)

theorem dataByte_of_plain {x : RegionAccess} (h : Plain s.cfg a) : s.dataByte x a = s.dmByte a :=
  dataByte_of_no_region s x a (regionOf_eq_none_iff.2 h.2)

/-! What is stored -/

theorem byteStored_setByte (s : State) (a : Word) (b : Byte) : ByteStored s (s.setByte a b) a b :=
  ⟨memory_read_write_self .., fun _ hq => memory_read_write_other _ b (mt BitVec.toNat_inj.1 hq)⟩

theorem wordStored_setWord (s : State) (a v : Word) : WordStored s (s.setWord a v) a v := by
  obtain ⟨hfirst, hothers⟩ := byteStored_setByte s a (firstByte s.cfg.endian v)
  obtain ⟨hsecond, hothers'⟩ := byteStored_setByte (s.setByte a (firstByte s.cfg.endian v)) (a + 1)
    (secondByte s.cfg.endian v)
  exact ⟨(hothers' a (word_ne_succ a)).trans hfirst, hsecond,
    fun q hq hq' => (hothers' q hq').trans (hothers q hq)⟩

/-! Accesses to bytes that exist -/

theorem readByte_of_present (h : Present s.cfg a) :
    s.readByte a = .ok (byteAt s a, s.note [a] (.readByte a)) :=
  (readByte_eq_ok s a _).2 ⟨dataStop_eq_none_iff.2 h, rfl⟩

theorem writeByte_of_present (h : Present s.cfg a) :
    s.writeByte a v = .ok ((s.setByte a (lowByte v)).note [a] (.writeByte a (lowByte v))) :=
  (writeByte_eq_ok s a v _).2 ⟨dataStop_eq_none_iff.2 h, rfl⟩

theorem wordAt_eq_joinBytes (s : State) (a : Word) :
    wordAt s a =
      joinBytes s.cfg.endian (s.dataByte (.readWord a) a) (s.dataByte (.readWord a) (a + 1)) := by
  unfold wordAt
  cases s.cfg.endian <;> rfl

theorem readWord_of_present (he : IsEven a) (h : PresentWord s.cfg a) :
    s.readWord a = .ok (wordAt s a, s.note [a, a + 1] (.readWord a)) :=
  (readWord_eq_ok s a _).2 ⟨a, wordBase_of_even _ a (isEven_iff.1 he), wordStop_eq_none_iff.2 h,
    by rw [wordAt_eq_joinBytes]⟩

theorem writeWord_of_present (he : IsEven a) (h : PresentWord s.cfg a) :
    s.writeWord a v = .ok ((s.setWord a v).note [a, a + 1] (.writeWord a v)) :=
  (writeWord_eq_ok s a v _).2
    ⟨a, wordBase_of_even _ a (isEven_iff.1 he), wordStop_eq_none_iff.2 h, rfl⟩

/-! Accesses to plain memory -/

theorem readByte_of_plain (h : Plain s.cfg a) : s.readByte a = .ok (s.dmByte a, s) := by
  rw [readByte_of_present h.1, byteAt, dataByte_of_plain h, note_of_plain h]

theorem writeByte_of_plain (h : Plain s.cfg a) :
    s.writeByte a v = .ok (s.setByte a (lowByte v)) := by
  rw [writeByte_of_present h.1, note_of_plain (s := s.setByte a _) h]

theorem readWord_of_plain (he : IsEven a) (h : PlainWord s.cfg a) :
    s.readWord a = .ok (joinBytes s.cfg.endian (s.dmByte a) (s.dmByte (a + 1)), s) := by
  rw [readWord_of_present he h.present, wordAt_eq_joinBytes, dataByte_of_plain h.1,
    dataByte_of_plain h.2, note_of_plainWord h]

theorem writeWord_of_plain (he : IsEven a) (h : PlainWord s.cfg a) :
    s.writeWord a v = .ok (s.setWord a v) := by
  rw [writeWord_of_present he h.present, note_of_plainWord (s := s.setWord a v) h]

/-! Accesses that stop, and instructions that do not store -/

theorem pmRead_beyond (h : s.cfg.pmWords ≤ a.toNat) :
    s.pmRead a = .error (.refused (.programOutOfRange a)) :=
  if_neg (Nat.not_lt.2 h)

theorem wordBase_of_not_isEven (ho : ¬IsEven a) (hc : c.misaligned = .fault) :
    wordBase c a = none :=
  wordBase_of_odd c a (not_isEven_iff.1 ho) hc

theorem Writes.dm_eq {i : Instr} (w : Writes i s u) (hi : storesToMemory i = false) :
    u.dm = s.dm := by
  induction w with
  | setByte _ _ h => simp [hi] at h
  | _ => simp [*]

end

end Sys2Proof.Claims
end

section
/-! PROOFS. The statements about the memories (spec/20_memory.md R40 to R49). -/

namespace Sys2Proof.Claims

open Sys2Proof.Machine

/-- Settles O18: the one update that writes DM is that of the listed instructions. -/
theorem onlyStoresChangeDataMemory : Obligations.OnlyStoresChangeDataMemory := by
  intro i s t h hi a
  obtain ⟨u, _, _, _, w, rfl⟩ := exec_writes h
  rw [← w.dm_eq hi]

/-- Settles O27: plain memory answers the byte last stored at an address, and the two bytes of a
word join to it again. -/
theorem storedWordsAndBytesReadBack : Obligations.StoredWordsAndBytesReadBack := by
  intro s a v he hp
  refine ⟨s.setWord a v, writeWord_of_plain he hp, wordStored_setWord s a v, ?word, ?first,
    ?second, fun x y => ⟨s.setByte a (lowByte x), (s.setByte a (lowByte x)).setByte (a + 1)
      (lowByte y), writeByte_of_plain hp.1, writeByte_of_plain hp.2, ?bytes⟩⟩
  case word =>
    rw [readWord_of_plain (s := s.setWord a v) he hp, setWord_dmByte_first, setWord_dmByte_second,
      setWord_cfg, joinBytes_split]
  case first =>
    rw [readByte_of_plain (s := s.setWord a v) hp.1, setWord_dmByte_first]
    rfl
  case second =>
    rw [readByte_of_plain (s := s.setWord a v) hp.2, setWord_dmByte_second]
    rfl
  case bytes =>
    rw [readWord_of_plain (s := (s.setByte a _).setByte (a + 1) _) he hp, setByte_dmByte,
      if_neg (word_ne_succ a), setByte_dmByte, if_pos rfl, setByte_dmByte, if_pos rfl]
    rfl

/-- Settles O7: the fetch is the read of program memory that R46 refuses. -/
theorem fetchBeyondProgramMemoryIsRefused : Obligations.FetchBeyondProgramMemoryIsRefused := by
  intro s hr hp
  have hf : s.fetch = .error (.refused (.programOutOfRange s.pc)) := pmRead_beyond hp
  simp [step, hr, hf, Stop.result]

/-- Settles O28: an odd address is the base of no word; a byte that exists is accessed, and read
from DM or from the first region that holds it. -/
theorem oddWordAccessFaults : Obligations.OddWordAccessFaults := by
  intro s a v
  refine ⟨fun ho hc => ?odd, fun hp => ⟨?read, ?write⟩, fun hn x => ?plain,
    fun before after g hmap hbefore hg x => ?region⟩
  case odd =>
    have hbase := wordBase_of_not_isEven ho hc
    exact ⟨readWord_misaligned s a hbase, writeWord_misaligned s a v hbase⟩
  case read =>
    exact ⟨_, readByte_of_present hp, fun _ => rfl, machineKeptBy_note_byte (machineKept_refl s)⟩
  case write =>
    exact ⟨_, writeByte_of_present hp, byteStored_setByte s a (lowByte v),
      machineKeptBy_note_byte (machineKept_setByte s a _)⟩
  case plain => exact dataByte_of_no_region s x a (regionOf_eq_none_iff.2 hn)
  case region => exact dataByte_of_region s x a (regionOf_first s.cfg a hmap hbefore hg)

end Sys2Proof.Claims
end

section
/-! SUPPORT. The decoder on the words the encoder makes (spec/30_encoding.md R60 to R66). -/

namespace Sys2Proof.Laws

/-- Bits 15..13 001: format R1, or one of the two J rows that share it (R64, R65). -/
theorem decode_eq_decodeR1 (w : Word) (h : w.extractLsb' 13 3 = 0b001#3) :
    decode w = decodeR1 w := by
  have hq : (w.extractLsb' 11 5).toNat / 4 = 1 := by
    have htop : (w.extractLsb' 13 3).toNat = 1 := congrArg BitVec.toNat h
    simp only [BitVec.extractLsb'_toNat, Nat.shiftRight_eq_div_pow] at htop ⊢
    omega
  have hc : (w.extractLsb' 11 5).toNat = 4 ∨ (w.extractLsb' 11 5).toNat = 5 ∨
      (w.extractLsb' 11 5).toNat = 6 ∨ (w.extractLsb' 11 5).toNat = 7 := by omega
  rcases hc with hc | hc | hc | hc <;> simp [decode, hc]

theorem decode_formatJ (op : BitVec 7) (a : BitVec 9) (h : op.extractLsb' 4 3 = 0b001#3) :
    decode (formatJ op a) = decodeR1 (formatJ op a) := by
  apply decode_eq_decodeR1
  rw [← extract_extract _ 9 7 4 3 (by decide), formatJ_op, h]

theorem decode_formatR2Zero (op : BitVec 10) (x : BitVec 6) (h : op.extractLsb' 6 4 = 0b0000#4) :
    decode (formatR2Zero op x) = decodeR2 (formatR2Zero op x) := by
  apply decode_eq_decodeR2
  rw [← extract_extract _ 6 10 6 4 (by decide), formatR2Zero_op, h]
  rfl

/-- The decoder undoes the encoder: format by format, since the opcode selects the decoder of its
format and the fields are read back as they were put in. -/
theorem decode_encode (i : Instr) : decode (encode i) = .ok i := by
  cases i with
  | pfix_k | call | lea_mr | movw_mr | movzb_mr | movsb_mr | movw_rm | movb_rm
  | mov_kr | cmp_rk | add_kr | sub_kr | and_kr | movw_ar | movsb_ar | movw_ra | movb_ra
  | lea_qr | movw_qr | movsb_qr | movw_rq | movb_rq => simp [encode, decode]
  | br_ck => exact decode_formatBranch ..
  | add_kq | jmp_k =>
    rw [encode, decode_formatJ _ _ rfl]
    simp [decodeR1]
  | cmp_rr | cmpc_rr | sub_rrr | subc_rrr | or_rrr | and_rrr | xor_rrr | adc_rrr | add_rrr
  | movw_nr | movzb_nr | movsb_nr | movw_rn | movb_rn =>
    rw [encode, decode_formatR1 _ _ _ _ rfl]
    simp [decodeR1]
  | sel_crrr => exact decode_formatSelect ..
  | set_cr => exact decode_formatSet ..
  | mov_rr | mov_rq | zext_rr | sext_rr | bswap_rr | sextw_rr | movw_pr
  | lsr_rr | lsrc_rr | asr_rr | neg_rr | not_rr
  | jmp_r | call_r | push_r | pop_r | mov_sr | mov_rs =>
    rw [encode, decode_formatR2 _ _ _ rfl]
    simp [decodeR2, decodeMoves, decodeShifts, decodeIndirect]
  | ret | reti | dint | eint | halt
  | reserved_110_000 | reserved_011_001 | reserved_100_001 | reserved_111_001
  | reserved_100_010 | reserved_101_010 | reserved_101_011 | reserved_110_011
  | reserved_111_011 =>
    rw [encode, decode_formatR2Zero _ _ rfl]
    simp [decodeR2, decodeMoves, decodeShifts, decodeIndirect, decodeZeroOperand]
  | reserved_xxx_10x => exact decode_formatReserved ..

end Sys2Proof.Laws
end

section
/-! SUPPORT. Every word decodes, and encodes again to its used bits (spec/30_encoding.md R66, R74):
the opcode of a word put together from the fields the decoder splits on, then the word from its
opcode and operands, then the decoders one by one. -/

namespace Sys2Proof.Laws

section
variable {w : Word}

/-! The opcode of a word -/

theorem top4_eq {k : Nat} (h : (w.extractLsb' 11 5).toNat = k) :
    w.extractLsb' 12 4 = BitVec.ofNat 4 (k / 2) := by
  rw [← h, opcode5_half, BitVec.ofNat_toNat, BitVec.setWidth_eq]

theorem top3_eq {k : Nat} (h : (w.extractLsb' 11 5).toNat = k) :
    w.extractLsb' 13 3 = BitVec.ofNat 3 (k / 4) := by
  apply BitVec.eq_of_toNat_eq
  simp only [BitVec.extractLsb'_toNat, Nat.shiftRight_eq_div_pow, BitVec.toNat_ofNat] at h ⊢
  omega

theorem opL_top {k : Nat} (h : (w.extractLsb' 6 3).toNat = k) :
    w.extractLsb' 7 2 = BitVec.ofNat 2 (k / 2) := by
  rw [← h, opL_half, BitVec.ofNat_toNat, BitVec.setWidth_eq]

theorem opcode5_eq {k : Nat} (h : (w.extractLsb' 11 5).toNat = k) :
    w.extractLsb' 11 5 = BitVec.ofNat 5 k := by
  rw [← h, BitVec.ofNat_toNat, BitVec.setWidth_eq]

theorem opcode7_eq {k : Nat} (htop : w.extractLsb' 13 3 = 0b001#3)
    (h : (w.extractLsb' 9 4).toNat = k) : w.extractLsb' 9 7 = BitVec.ofNat 7 (16 + k) := by
  have ht : (w.extractLsb' 13 3).toNat = 1 := congrArg BitVec.toNat htop
  apply BitVec.eq_of_toNat_eq
  simp only [BitVec.extractLsb'_toNat, Nat.shiftRight_eq_div_pow, BitVec.toNat_ofNat] at ht h ⊢
  omega

theorem opcode10_eq {opH opL : Nat} (htop : w.extractLsb' 12 4 = 0)
    (hL : (w.extractLsb' 6 3).toNat = opL) (hH : (w.extractLsb' 9 3).toNat = opH) :
    w.extractLsb' 6 10 = BitVec.ofNat 10 (8 * opH + opL) := by
  have ht : (w.extractLsb' 12 4).toNat = 0 := congrArg BitVec.toNat htop
  apply BitVec.eq_of_toNat_eq
  simp only [BitVec.extractLsb'_toNat, Nat.shiftRight_eq_div_pow, BitVec.toNat_ofNat] at ht hL hH ⊢
  omega

/-! The word from its opcode and its operands, the bits that are no operand cleared -/

theorem formatP_used {op : BitVec 5} (h : w.extractLsb' 11 5 = op) :
    formatP op (w.extractLsb' 0 11) = w &&& 0xFFFF#16 := by
  rw [← h, formatP_fields]
  exact BitVec.and_allOnes.symm

theorem formatI1_used {op : BitVec 5} (h : w.extractLsb' 11 5 = op) :
    formatI1 op (w.extractLsb' 6 5) (Reg.ofBits (w.extractLsb' 3 3)).bits
      (Reg.ofBits (w.extractLsb' 0 3)).bits = w &&& 0xFFFF#16 := by
  rw [← h, reg_bits_ofBits, reg_bits_ofBits, formatI1_fields]
  exact BitVec.and_allOnes.symm

theorem formatI2_used {op : BitVec 5} (h : w.extractLsb' 11 5 = op) :
    formatI2 op (w.extractLsb' 3 8) (Reg.ofBits (w.extractLsb' 0 3)).bits = w &&& 0xFFFF#16 := by
  rw [← h, reg_bits_ofBits, formatI2_fields]
  exact BitVec.and_allOnes.symm

theorem formatJ_used {op : BitVec 7} (h : w.extractLsb' 9 7 = op) :
    formatJ op (w.extractLsb' 0 9) = w &&& 0xFFFF#16 := by
  rw [← h, formatJ_fields]
  exact BitVec.and_allOnes.symm

theorem formatR1_used {op : BitVec 7} (h : w.extractLsb' 9 7 = op) :
    formatR1 op (Reg.ofBits (w.extractLsb' 6 3)).bits (Reg.ofBits (w.extractLsb' 3 3)).bits
      (Reg.ofBits (w.extractLsb' 0 3)).bits = w &&& 0xFFFF#16 := by
  rw [← h, reg_bits_ofBits, reg_bits_ofBits, reg_bits_ofBits, formatR1_fields]
  exact BitVec.and_allOnes.symm

theorem formatR1_used_rn_rs {op : BitVec 7} (h : w.extractLsb' 9 7 = op) :
    formatR1 op (Reg.ofBits (w.extractLsb' 6 3)).bits (Reg.ofBits (w.extractLsb' 3 3)).bits 0 =
      w &&& 0xFFF8#16 := by
  rw [← h, reg_bits_ofBits, reg_bits_ofBits]
  apply BitVec.eq_of_getLsbD_eq
  intro i hi
  interval_cases i <;> simp [formatR1]

theorem formatR2_used {op : BitVec 10} (h : w.extractLsb' 6 10 = op) :
    formatR2 op (Reg.ofBits (w.extractLsb' 3 3)).bits (Reg.ofBits (w.extractLsb' 0 3)).bits =
      w &&& 0xFFFF#16 := by
  rw [← h, reg_bits_ofBits, reg_bits_ofBits, formatR2_fields]
  exact BitVec.and_allOnes.symm

theorem formatR2_used_x_rd {op : BitVec 10} (h : w.extractLsb' 6 10 = op) :
    formatR2 op (w.extractLsb' 3 3) (Reg.ofBits (w.extractLsb' 0 3)).bits = w &&& 0xFFFF#16 := by
  rw [← formatR2_used h, reg_bits_ofBits (w.extractLsb' 3 3)]

theorem formatR2_used_rs {op : BitVec 10} (h : w.extractLsb' 6 10 = op) :
    formatR2 op (Reg.ofBits (w.extractLsb' 3 3)).bits 0 = w &&& 0xFFF8#16 := by
  rw [← h, reg_bits_ofBits]
  apply BitVec.eq_of_getLsbD_eq
  intro i hi
  interval_cases i <;> simp [formatR2]

theorem formatR2_used_rd {op : BitVec 10} (h : w.extractLsb' 6 10 = op) :
    formatR2 op 0 (Reg.ofBits (w.extractLsb' 0 3)).bits = w &&& 0xFFC7#16 := by
  rw [← h, reg_bits_ofBits]
  apply BitVec.eq_of_getLsbD_eq
  intro i hi
  interval_cases i <;> simp [formatR2]

theorem formatR2Zero_used_x {op : BitVec 10} (h : w.extractLsb' 6 10 = op) :
    formatR2Zero op (w.extractLsb' 0 6) = w &&& 0xFFFF#16 := by
  rw [← h, formatR2Zero_fields]
  exact BitVec.and_allOnes.symm

theorem formatR2Zero_used {op : BitVec 10} (h : w.extractLsb' 6 10 = op) :
    formatR2Zero op 0 = w &&& 0xFFC0#16 := by
  rw [← h]
  apply BitVec.eq_of_getLsbD_eq
  intro i hi
  interval_cases i <;> simp [formatR2Zero]

theorem formatBranch_used (h : w.extractLsb' 12 4 = 0b0100#4) :
    formatBranch (Cond.ofBits (w.extractLsb' 9 3)).bits (w.extractLsb' 0 9) = w &&& 0xFFFF#16 := by
  have htop : 0x4000#16 = (w.extractLsb' 12 4).setWidth 16 <<< 12 := by rw [h]; rfl
  rw [formatBranch, htop, cond_bits_ofBits]
  apply BitVec.eq_of_getLsbD_eq
  intro i hi
  interval_cases i <;> simp

theorem formatSelect_used (h : w.extractLsb' 12 4 = 0b0001#4) :
    formatSelect (Cond.ofBits (w.extractLsb' 9 3)).bits (Reg.ofBits (w.extractLsb' 6 3)).bits
      (Reg.ofBits (w.extractLsb' 3 3)).bits (Reg.ofBits (w.extractLsb' 0 3)).bits =
      w &&& 0xFFFF#16 := by
  have htop : 0x1000#16 = (w.extractLsb' 12 4).setWidth 16 <<< 12 := by rw [h]; rfl
  rw [formatSelect, htop, cond_bits_ofBits, reg_bits_ofBits, reg_bits_ofBits, reg_bits_ofBits]
  apply BitVec.eq_of_getLsbD_eq
  intro i hi
  interval_cases i <;> simp

theorem formatSet_used (htop : w.extractLsb' 12 4 = 0) (h : w.extractLsb' 7 2 = 0b11#2) :
    formatSet (Cond.ofBits (w.extractLsb' 9 3)).bits 0 (Reg.ofBits (w.extractLsb' 0 3)).bits =
      w &&& 0xFF87#16 := by
  have hop : 0x0180#16 =
      (w.extractLsb' 12 4).setWidth 16 <<< 12 ||| (w.extractLsb' 7 2).setWidth 16 <<< 7 := by
    rw [htop, h]; rfl
  rw [formatSet, hop, cond_bits_ofBits, reg_bits_ofBits]
  apply BitVec.eq_of_getLsbD_eq
  intro i hi
  interval_cases i <;> simp

theorem formatReserved_used (htop : w.extractLsb' 12 4 = 0) (h : w.extractLsb' 7 2 = 0b10#2) :
    formatReserved (w.extractLsb' 9 3) (w.extractLsb' 0 7) = w &&& 0xFFFF#16 := by
  have hop : 0x0100#16 =
      (w.extractLsb' 12 4).setWidth 16 <<< 12 ||| (w.extractLsb' 7 2).setWidth 16 <<< 7 := by
    rw [htop, h]; rfl
  rw [formatReserved, hop]
  apply BitVec.eq_of_getLsbD_eq
  intro i hi
  interval_cases i <;> simp

/-! The decoders. Each proof goes through the opcodes in rising order, as the rows of R66 stand; a run
of rows with the same operands is one `iterate`. -/

/-- The answer of a decoder to the word `w`: an instruction, whose word is `w` with the bits it does
not use cleared. -/
def RoundTrips (w : Word) (o : Except DecodeError Instr) : Prop :=
  ∃ i, o = .ok i ∧ encode i = w &&& i.opcodeRow.used

theorem roundTrips_ok {i : Instr} (h : encode i = w &&& i.opcodeRow.used) :
    RoundTrips w (.ok i) :=
  ⟨i, rfl, h⟩

theorem decodeMoves_roundTrips (htop : w.extractLsb' 12 4 = 0)
    (hL : (w.extractLsb' 6 3).toNat = 0) : RoundTrips w (decodeMoves w) := by
  have hlt := (w.extractLsb' 9 3).isLt
  unfold decodeMoves
  interval_cases hH : (w.extractLsb' 9 3).toNat
  exact roundTrips_ok (formatR2_used (opcode10_eq htop hL hH))
  exact roundTrips_ok (formatR2_used_rs (opcode10_eq htop hL hH))
  iterate 4 exact roundTrips_ok (formatR2_used (opcode10_eq htop hL hH))
  exact roundTrips_ok (formatR2Zero_used_x (opcode10_eq htop hL hH))
  exact roundTrips_ok (formatR2_used (opcode10_eq htop hL hH))

theorem decodeShifts_roundTrips (htop : w.extractLsb' 12 4 = 0)
    (hL : (w.extractLsb' 6 3).toNat = 1) : RoundTrips w (decodeShifts w) := by
  have hlt := (w.extractLsb' 9 3).isLt
  unfold decodeShifts
  interval_cases hH : (w.extractLsb' 9 3).toNat
  iterate 3 exact roundTrips_ok (formatR2_used (opcode10_eq htop hL hH))
  iterate 2 exact roundTrips_ok (formatR2Zero_used_x (opcode10_eq htop hL hH))
  iterate 2 exact roundTrips_ok (formatR2_used (opcode10_eq htop hL hH))
  exact roundTrips_ok (formatR2Zero_used_x (opcode10_eq htop hL hH))

theorem decodeIndirect_roundTrips (htop : w.extractLsb' 12 4 = 0)
    (hL : (w.extractLsb' 6 3).toNat = 2) : RoundTrips w (decodeIndirect w) := by
  have hlt := (w.extractLsb' 9 3).isLt
  unfold decodeIndirect
  interval_cases hH : (w.extractLsb' 9 3).toNat
  iterate 4 exact roundTrips_ok (formatR2_used_rd (opcode10_eq htop hL hH))
  iterate 2 exact roundTrips_ok (formatR2Zero_used_x (opcode10_eq htop hL hH))
  iterate 2 exact roundTrips_ok (formatR2_used_x_rd (opcode10_eq htop hL hH))

theorem decodeZeroOperand_roundTrips (htop : w.extractLsb' 12 4 = 0)
    (hL : (w.extractLsb' 6 3).toNat = 3) : RoundTrips w (decodeZeroOperand w) := by
  have hlt := (w.extractLsb' 9 3).isLt
  unfold decodeZeroOperand
  interval_cases hH : (w.extractLsb' 9 3).toNat
  iterate 5 exact roundTrips_ok (formatR2Zero_used (opcode10_eq htop hL hH))
  iterate 3 exact roundTrips_ok (formatR2Zero_used_x (opcode10_eq htop hL hH))

theorem decodeR2_roundTrips (htop : w.extractLsb' 12 4 = 0) : RoundTrips w (decodeR2 w) := by
  have hlt := (w.extractLsb' 6 3).isLt
  unfold decodeR2
  interval_cases hL : (w.extractLsb' 6 3).toNat
  exact decodeMoves_roundTrips htop hL
  exact decodeShifts_roundTrips htop hL
  exact decodeIndirect_roundTrips htop hL
  exact decodeZeroOperand_roundTrips htop hL
  iterate 2 exact roundTrips_ok (formatReserved_used htop (opL_top hL))
  iterate 2 exact roundTrips_ok (formatSet_used htop (opL_top hL))

theorem decodeR1_roundTrips (htop : w.extractLsb' 13 3 = 0b001#3) :
    RoundTrips w (decodeR1 w) := by
  have hlt := (w.extractLsb' 9 4).isLt
  unfold decodeR1
  interval_cases hop : (w.extractLsb' 9 4).toNat
  iterate 2 exact roundTrips_ok (formatR1_used_rn_rs (opcode7_eq htop hop))
  iterate 12 exact roundTrips_ok (formatR1_used (opcode7_eq htop hop))
  iterate 2 exact roundTrips_ok (formatJ_used (opcode7_eq htop hop))

theorem decode_roundTrips (w : Word) : RoundTrips w (decode w) := by
  have hlt := (w.extractLsb' 11 5).isLt
  unfold decode
  interval_cases hop : (w.extractLsb' 11 5).toNat
  iterate 2 exact decodeR2_roundTrips (top4_eq hop)
  iterate 2 exact roundTrips_ok (formatSelect_used (top4_eq hop))
  iterate 4 exact decodeR1_roundTrips (top3_eq hop)
  iterate 2 exact roundTrips_ok (formatBranch_used (top4_eq hop))
  iterate 14 exact roundTrips_ok (formatI2_used (opcode5_eq hop))
  iterate 6 exact roundTrips_ok (formatI1_used (opcode5_eq hop))
  iterate 2 exact roundTrips_ok (formatP_used (opcode5_eq hop))

end

end Sys2Proof.Laws
end

section
/-! SUPPORT. The rows of the opcode map (spec/30_encoding.md R66): the word of an instruction lies in
its row, and a word that lies in a row decodes to an instruction of that row. -/

namespace Sys2Proof.Laws

/-- A row uses every bit that tells it from the others. -/
theorem used_and_mask (i : Instr) : i.opcodeRow.used &&& i.opcodeRow.mask = i.opcodeRow.mask := by
  cases i <;> simp only [Instr.opcodeRow] <;> decide

theorem encode_fixed (i : Instr) : encode i &&& i.opcodeRow.mask = i.opcodeRow.pattern := by
  cases i with
  | pfix_k | call => exact formatP_fixed ..
  | lea_mr | movw_mr | movzb_mr | movsb_mr | movw_rm | movb_rm => exact formatI1_fixed ..
  | mov_kr | cmp_rk | add_kr | sub_kr | and_kr | movw_ar | movsb_ar | movw_ra | movb_ra
  | lea_qr | movw_qr | movsb_qr | movw_rq | movb_rq => exact formatI2_fixed ..
  | br_ck => exact formatBranch_fixed ..
  | add_kq | jmp_k => exact formatJ_fixed ..
  | cmp_rr | cmpc_rr | sub_rrr | subc_rrr | or_rrr | and_rrr | xor_rrr | adc_rrr | add_rrr
  | movw_nr | movzb_nr | movsb_nr | movw_rn | movb_rn => exact formatR1_fixed ..
  | sel_crrr => exact formatSelect_fixed ..
  | set_cr => exact formatSet_fixed ..
  | mov_rr | mov_rq | zext_rr | sext_rr | bswap_rr | sextw_rr | movw_pr
  | lsr_rr | lsrc_rr | asr_rr | neg_rr | not_rr
  | jmp_r | call_r | push_r | pop_r | mov_sr | mov_rs => exact formatR2_fixed ..
  | ret | reti | dint | eint | halt
  | reserved_110_000 | reserved_011_001 | reserved_100_001 | reserved_111_001
  | reserved_100_010 | reserved_101_010 | reserved_101_011 | reserved_110_011
  | reserved_111_011 => exact formatR2Zero_fixed ..
  | reserved_xxx_10x => exact formatReserved_fixed ..

/-- A slice of a word inside the bits a mask keeps is that slice of the masked word. -/
theorem extract_of_fixed {w m p : Word} (lo len : Nat) (h : w &&& m = p)
    (hm : m.extractLsb' lo len = BitVec.allOnes len) :
    w.extractLsb' lo len = p.extractLsb' lo len := by
  rw [← h, BitVec.extractLsb'_and, hm, BitVec.and_allOnes]

theorem opcode5_cases {w : Word} {v : BitVec 4} (h : w.extractLsb' 12 4 = v) :
    (w.extractLsb' 11 5).toNat = 2 * v.toNat ∨ (w.extractLsb' 11 5).toNat = 2 * v.toNat + 1 := by
  have hw := opcode5_half w
  rw [h] at hw
  omega

theorem opL_cases {w : Word} {v : BitVec 2} (h : w.extractLsb' 7 2 = v) :
    (w.extractLsb' 6 3).toNat = 2 * v.toNat ∨ (w.extractLsb' 6 3).toNat = 2 * v.toNat + 1 := by
  have hw := opL_half w
  rw [h] at hw
  omega

/-- A word that lies in a row decodes to an instruction of that row: the fixed bits of the row hold
the opcode fields the decoder splits on. -/
theorem decode_row {w : Word} {j : Instr}
    (h : w &&& j.opcodeRow.mask = j.opcodeRow.pattern) :
    (decode w).map Instr.opcodeRow = .ok j.opcodeRow := by
  cases j <;> simp only [Instr.opcodeRow] at h ⊢
  case pfix_k | call | lea_mr | movw_mr | movzb_mr | movsb_mr | movw_rm | movb_rm
      | mov_kr | cmp_rk | add_kr | sub_kr | and_kr | movw_ar | movsb_ar | movw_ra | movb_ra
      | lea_qr | movw_qr | movsb_qr | movw_rq | movb_rq =>
    have hop := extract_of_fixed 11 5 h (by decide)
    simp [decode, hop, Except.map, Instr.opcodeRow]
  case br_ck | sel_crrr =>
    rcases opcode5_cases (extract_of_fixed 12 4 h (by decide)) with hop | hop <;>
      simp [decode, hop, Except.map, Instr.opcodeRow]
  case add_kq | jmp_k | cmp_rr | cmpc_rr | sub_rrr | subc_rrr | or_rrr | and_rrr | xor_rrr
      | adc_rrr | add_rrr | movw_nr | movzb_nr | movsb_nr | movw_rn | movb_rn =>
    have hop := extract_of_fixed 9 4 h (by decide)
    rw [decode_eq_decodeR1 w (extract_of_fixed 13 3 h (by decide))]
    simp [decodeR1, hop, Except.map, Instr.opcodeRow]
  case set_cr | reserved_xxx_10x =>
    rw [decode_eq_decodeR2 w (extract_of_fixed 12 4 h (by decide))]
    rcases opL_cases (extract_of_fixed 7 2 h (by decide)) with hL | hL <;>
      simp [decodeR2, hL, Except.map, Instr.opcodeRow]
  all_goals
    have hH := extract_of_fixed 9 3 h (by decide)
    have hL := extract_of_fixed 6 3 h (by decide)
    rw [decode_eq_decodeR2 w (extract_of_fixed 12 4 h (by decide))]
    simp [decodeR2, decodeMoves, decodeShifts, decodeIndirect, decodeZeroOperand, hH, hL,
      Except.map, Instr.opcodeRow]

section
variable {w : Word} {i j : Instr}

theorem encode_of_decode (h : decode w = .ok i) : encode i = w &&& i.opcodeRow.used := by
  obtain ⟨k, hk, henc⟩ := decode_roundTrips w
  obtain rfl : i = k := Except.ok.inj (h.symm.trans hk)
  exact henc

theorem encode_injective (h : encode i = encode j) : i = j := by
  simpa [decode_encode] using congrArg decode h

/-- A word with the used bits of an instruction lies in its row. -/
theorem matches_of_used (h : encode i = w &&& i.opcodeRow.used) :
    w &&& i.opcodeRow.mask = i.opcodeRow.pattern := by
  rw [← used_and_mask, ← BitVec.and_assoc, ← h, encode_fixed]

/-- A word lies in no other row. -/
theorem row_of_matches (h : decode w = .ok i)
    (hj : w &&& j.opcodeRow.mask = j.opcodeRow.pattern) : j.opcodeRow = i.opcodeRow := by
  have hr := decode_row hj
  rw [h] at hr
  exact (Except.ok.inj hr).symm

end

end Sys2Proof.Laws
end

section
/-! SUPPORT. PFX while it is valid (spec/30_encoding.md R68 to R70): which instructions check for it,
what they answer, and why no other answer is that refusal. -/

namespace Sys2Proof.Claims

open Sys2Proof.Machine

section
variable {i : Instr} {s : State}

/-! Instructions without an immediate -/

theorem pendingPrefixWord_eq (s : State) :
    s.pendingPrefixWord = 0xF800#16 ||| s.pfx.imm.setWidth 16 := rfl

/-- An instruction without an immediate looks at PFX before anything else. -/
theorem exec_eq_unlessPrefixed (s : State) (hi : i.prefixable = false) :
    ∃ o, exec i s = s.unlessPrefixed o := by
  cases i with
  | call | lea_mr | movw_mr | movzb_mr | movsb_mr | movw_rm | movb_rm
  | mov_kr | cmp_rk | add_kr | sub_kr | and_kr | movw_ar | movsb_ar | movw_ra | movb_ra
  | lea_qr | movw_qr | movsb_qr | movw_rq | movb_rq | br_ck | add_kq | jmp_k => cases hi
  | _ => exact ⟨_, rfl⟩

theorem exec_misuse (hp : s.pfx.valid = true) (hi : i.prefixable = false) :
    exec i s =
      .refused (.prefixMisuse (0xF800#16 ||| s.pfx.imm.setWidth 16) (s.pmWord s.pc)) := by
  obtain ⟨o, ho⟩ := exec_eq_unlessPrefixed s hi
  rw [ho, unlessPrefixed_of_valid s o hp, pendingPrefixWord_eq]

/-! Instructions with an immediate -/

/-- An answer other than the refusal of R70. -/
def NotMisuse (o : Result) : Prop := ∀ p w, o ≠ .refused (.prefixMisuse p w)

theorem notMisuse_next (t : State) : NotMisuse (.next t) := by
  rintro p w ⟨⟩

theorem notMisuse_andThen {α : Type} {x : Except Stop α} {k : α → Result}
    (hx : ∀ e, x = .error e → NotMisuse e.result) (hk : ∀ v, NotMisuse (k v)) :
    NotMisuse (andThen x k) := by
  cases x with
  | ok v => exact hk v
  | error e => exact hx e rfl

theorem notMisuse_misaligned (a : Word) : NotMisuse (.fault (.misaligned a)) := by
  rintro p w ⟨⟩

theorem notMisuse_of_dataStop {c : Config} {a : Word} {r : Refusal} (h : dataStop c a = some r) :
    NotMisuse (.refused r) := by
  unfold dataStop at h
  split at h <;> cases h
  rintro p w ⟨⟩

theorem notMisuse_of_wordStop {c : Config} {a : Word} {r : Refusal} (h : wordStop c a = some r) :
    NotMisuse (.refused r) := by
  unfold wordStop at h
  split at h
  · cases h
    exact notMisuse_of_dataStop (by assumption)
  · exact notMisuse_of_dataStop h

theorem notMisuse_readByte {a : Word} (e : Stop) (h : s.readByte a = .error e) :
    NotMisuse e.result := by
  unfold State.readByte at h
  split at h <;> cases h
  exact notMisuse_of_dataStop (by assumption)

theorem notMisuse_writeByte {a v : Word} (e : Stop) (h : s.writeByte a v = .error e) :
    NotMisuse e.result := by
  unfold State.writeByte at h
  split at h <;> cases h
  exact notMisuse_of_dataStop (by assumption)

theorem notMisuse_readWord {a : Word} (e : Stop) (h : s.readWord a = .error e) :
    NotMisuse e.result := by
  unfold State.readWord at h
  split at h
  · cases h
    exact notMisuse_misaligned a
  · split at h <;> cases h
    exact notMisuse_of_wordStop (by assumption)

theorem notMisuse_writeWord {a v : Word} (e : Stop) (h : s.writeWord a v = .error e) :
    NotMisuse e.result := by
  unfold State.writeWord at h
  split at h
  · cases h
    exact notMisuse_misaligned a
  · split at h <;> cases h
    exact notMisuse_of_wordStop (by assumption)

theorem notMisuse_loadWord (ea : Word) (rd : Reg) : NotMisuse (s.loadWord ea rd) :=
  notMisuse_andThen notMisuse_readWord fun _ => notMisuse_next _

theorem notMisuse_loadByte (ea : Word) (ext : Ext) (rd : Reg) :
    NotMisuse (s.loadByte ea ext rd) :=
  notMisuse_andThen notMisuse_readByte fun _ => notMisuse_next _

theorem notMisuse_storeWord (ea v : Word) : NotMisuse (s.storeWord ea v) :=
  notMisuse_andThen notMisuse_writeWord fun _ => notMisuse_next _

theorem notMisuse_storeByte (ea v : Word) : NotMisuse (s.storeByte ea v) :=
  notMisuse_andThen notMisuse_writeByte fun _ => notMisuse_next _

theorem notMisuse_callTo (target : Word) : NotMisuse (s.callTo target) :=
  notMisuse_andThen notMisuse_writeWord fun _ => notMisuse_next _

/-- An instruction with an immediate stops, if at all, for an address. -/
theorem notMisuse_exec (s : State) (hi : i.prefixable = true) : NotMisuse (exec i s) := by
  cases i with
  | lea_mr | mov_kr | cmp_rk | add_kr | sub_kr | and_kr | lea_qr | br_ck | add_kq | jmp_k =>
    exact notMisuse_next _
  | movw_mr | movw_ar | movw_qr => exact notMisuse_loadWord _ _
  | movzb_mr | movsb_mr | movsb_ar | movsb_qr => exact notMisuse_loadByte _ _ _
  | movw_rm | movw_ra | movw_rq => exact notMisuse_storeWord _ _
  | movb_rm | movb_ra | movb_rq => exact notMisuse_storeByte _ _
  | call => exact notMisuse_callTo _
  | _ => cases hi

end

end Sys2Proof.Claims
end

section
/-! SUPPORT. What an instruction that writes one register, or one register and the flags, ends with,
and the operand PFX makes with a field (spec/30_encoding.md R68, R80). -/

namespace Sys2Proof.Claims

open Sys2Proof.Machine

section
variable {s : State}

theorem writesReg_retire (s : State) (rd : Reg) (v : Word) :
    WritesReg s (.next (s.setReg rd v).retire) rd v :=
  ⟨_, rfl, setReg_reg_self s rd v, fun _ hq => setReg_reg_other s v hq, rfl, rfl, fun _ => rfl,
    ⟨rfl, rfl, rfl, rfl⟩, advanced_retire rfl⟩

theorem writesReg_unlessPrefixed (rd : Reg) (v : Word) (hp : s.pfx.valid = false) :
    WritesReg s (s.unlessPrefixed (.next (s.setReg rd v).retire)) rd v := by
  rw [unlessPrefixed_of_not s _ hp]
  exact writesReg_retire s rd v

theorem writesRegAndFlags_retire (s : State) (rd : Reg) (x : Alu) :
    WritesRegAndFlags s (.next ((s.setReg rd x.r).setArith x).retire) rd x :=
  ⟨_, rfl, setReg_reg_self s rd x.r, fun _ hq => setReg_reg_other s x.r hq, rfl, rfl, fun _ => rfl,
    ⟨rfl, rfl, rfl, rfl⟩, advanced_retire rfl⟩

theorem writesRegAndFlags_unlessPrefixed (rd : Reg) (x : Alu) (hp : s.pfx.valid = false) :
    WritesRegAndFlags s (s.unlessPrefixed (.next ((s.setReg rd x.r).setArith x).retire)) rd x := by
  rw [unlessPrefixed_of_not s _ hp]
  exact writesRegAndFlags_retire s rd x

/-- `pfix_k` completes where PFX is not valid: the latch then holds its immediate. -/
theorem exec_pfix_k (k : BitVec 11) (hp : s.pfx.valid = false) :
    exec (.pfix_k k) s = .next { s with pc := s.next, pfx := { valid := true, imm := k } } :=
  unlessPrefixed_of_not s _ hp

/-- With bits 15..5 of `x` in the latch and bits 4..0 in the field the operand is `x`. -/
theorem effImm_latched_operand {n : Nat} {field : BitVec n} {x : Word} (ext : Ext)
    (hv : s.pfx.valid = true) (himm : s.pfx.imm = x.extractLsb' 5 11)
    (hf : field.extractLsb' 0 5 = x.extractLsb' 0 5) : s.effImm field ext = x := by
  apply BitVec.eq_of_toNat_eq
  have hlow := congrArg BitVec.toNat hf
  have hx := x.isLt
  rw [effImm_prefixed s field ext hv, prefixedImm_toNat, himm]
  simp only [BitVec.extractLsb'_toNat, Nat.shiftRight_eq_div_pow] at hlow ⊢
  omega

end

end Sys2Proof.Claims
end

section
/-! SUPPORT. The rows that are not implemented (spec/30_encoding.md R71, R73). -/

namespace Sys2Proof.Claims

open Sys2Proof.Machine Sys2Proof.Laws

/-- One instruction of each reserved and each not implemented row. -/
def illegalInstrs : List Instr :=
  [.reserved_110_000 0, .reserved_011_001 0, .reserved_100_001 0, .reserved_111_001 0,
    .reserved_100_010 0, .reserved_101_010 0, .reserved_101_011 0, .reserved_110_011 0,
    .reserved_111_011 0, .mov_sr 0 .r0, .mov_rs 0 .r0, .reserved_xxx_10x 0 0]

section
variable {i : Instr} {w : Word}

/-- Whether an instruction is implemented is a matter of its row. -/
theorem implemented_eq_false_iff :
    i.implemented = false ↔ i.opcodeRow ∈ illegalInstrs.map Instr.opcodeRow := by
  cases i <;> simp only [Instr.implemented, Instr.opcodeRow] <;> decide

/-- The words of those rows, by their masks. -/
theorem matches_illegal_iff :
    (∃ j ∈ illegalInstrs, w &&& j.opcodeRow.mask = j.opcodeRow.pattern) ↔
      w &&& 0xFFC0#16 ∈ [0x0C00#16, 0x0640#16, 0x0840#16, 0x0E40#16, 0x0880#16, 0x0A80#16,
        0x0AC0#16, 0x0CC0#16, 0x0EC0#16, 0x0C80#16, 0x0E80#16] ∨ w &&& 0xF180#16 = 0x0100#16 := by
  simp [illegalInstrs, Instr.opcodeRow, or_assoc]

theorem implemented_eq_false_iff_matches (h : decode w = .ok i) :
    i.implemented = false ↔
      ∃ j ∈ illegalInstrs, w &&& j.opcodeRow.mask = j.opcodeRow.pattern := by
  have hi := matches_of_used (encode_of_decode h)
  rw [implemented_eq_false_iff, List.mem_map]
  refine exists_congr fun j => and_congr_right fun _ => ⟨fun hrow => ?_, row_of_matches h⟩
  rw [hrow, hi]

theorem exec_of_not_implemented (s : State) (hi : i.implemented = false) :
    exec i s = s.illegal (encode i) := by
  cases i with
  | reserved_110_000 | reserved_011_001 | reserved_100_001 | reserved_111_001
  | reserved_100_010 | reserved_101_010 | reserved_101_011 | reserved_110_011
  | reserved_111_011 | reserved_xxx_10x | mov_sr | mov_rs => rfl
  | _ => cases hi

/-- A row that is not implemented uses every bit, for the fault to record. -/
theorem used_of_not_implemented (hi : i.implemented = false) :
    i.opcodeRow.used = BitVec.allOnes 16 := by
  cases i with
  | reserved_110_000 | reserved_011_001 | reserved_100_001 | reserved_111_001
  | reserved_100_010 | reserved_101_010 | reserved_101_011 | reserved_110_011
  | reserved_111_011 | reserved_xxx_10x | mov_sr | mov_rs => rfl
  | _ => cases hi

end

end Sys2Proof.Claims
end

section
/-! SUPPORT. The assembler's expansions (spec/30_encoding.md R79 to R81): the word of an instruction
with another immediate, doubling by addition, selection on an opposite condition. -/

namespace Sys2Proof.Claims

open Sys2Proof.Machine Sys2Proof.Laws

section
variable {i : Instr} {s : State} {x : Word}

/-! The word with another immediate, format by format -/

theorem wordWithOperand_formatI1 {op k : BitVec 5} {rs rd : BitVec 3}
    (hi : immediateField i = (6, 5)) :
    WordWithOperand i x (formatI1 op k rs rd) (formatI1 op (x.extractLsb' 0 5) rs rd) := by
  intro n hn
  rw [hi]
  interval_cases n <;> simp [formatI1, BitVec.getLsbD_of_ge]

theorem wordWithOperand_formatI2 {op : BitVec 5} {k : BitVec 8} {rd : BitVec 3}
    (hi : immediateField i = (3, 8)) :
    WordWithOperand i x (formatI2 op k rd)
      (formatI2 op ((x.extractLsb' 0 5).setWidth 8) rd) := by
  intro n hn
  rw [hi]
  interval_cases n <;> simp [formatI2, BitVec.getLsbD_of_ge]

theorem wordWithOperand_formatBranch {cc : BitVec 3} {a : BitVec 9}
    (hi : immediateField i = (0, 9)) :
    WordWithOperand i x (formatBranch cc a)
      (formatBranch cc ((x.extractLsb' 0 5).setWidth 9)) := by
  intro n hn
  rw [hi]
  interval_cases n <;> simp [formatBranch, BitVec.getLsbD_of_ge]

theorem wordWithOperand_formatJ {op : BitVec 7} {a : BitVec 9} (hi : immediateField i = (0, 9)) :
    WordWithOperand i x (formatJ op a) (formatJ op ((x.extractLsb' 0 5).setWidth 9)) := by
  intro n hn
  rw [hi]
  interval_cases n <;> simp [formatJ, BitVec.getLsbD_of_ge]

theorem wordWithOperand_formatP {op : BitVec 5} {a : BitVec 11}
    (hi : immediateField i = (0, 11)) :
    WordWithOperand i x (formatP op a) (formatP op ((x.extractLsb' 0 5).setWidth 11)) := by
  intro n hn
  rw [hi]
  interval_cases n <;> simp [formatP, BitVec.getLsbD_of_ge]

/-- Where there is an immediate, its low five bits can be set, and that changes no other bit of the
word but the field's discarded ones. -/
theorem withLowImmediate_of_prefixable (x : Word) (hi : i.prefixable = true) :
    ∃ j, withLowImmediate (x.extractLsb' 0 5) i = some j ∧ j.opcodeRow = i.opcodeRow ∧
      WordWithOperand i x (encode i) (encode j) := by
  cases i with
  | lea_mr | movw_mr | movzb_mr | movsb_mr | movw_rm | movb_rm =>
    exact ⟨_, rfl, rfl, wordWithOperand_formatI1 rfl⟩
  | mov_kr | cmp_rk | add_kr | sub_kr | and_kr | movw_ar | movsb_ar | movw_ra | movb_ra
  | lea_qr | movw_qr | movsb_qr | movw_rq | movb_rq =>
    exact ⟨_, rfl, rfl, wordWithOperand_formatI2 rfl⟩
  | br_ck => exact ⟨_, rfl, rfl, wordWithOperand_formatBranch rfl⟩
  | add_kq | jmp_k => exact ⟨_, rfl, rfl, wordWithOperand_formatJ rfl⟩
  | call => exact ⟨_, rfl, rfl, wordWithOperand_formatP rfl⟩
  | _ => cases hi

/-- The form with a 16-bit operand: `pfix_k`, then the instruction with the low five bits, and the
operand after `pfix_k` is the one written. -/
theorem long_form (x : Word) (hp : s.pfx.valid = false) (hi : i.prefixable = true) :
    ∃ j t, (AsmSource.long i x).expand = some [.pfix_k (x.extractLsb' 5 11), j] ∧
      j.opcodeRow = i.opcodeRow ∧ WordWithOperand i x (encode i) (encode j) ∧
      exec (.pfix_k (x.extractLsb' 5 11)) s = .next t ∧
      ∀ (n : Nat) (field : BitVec n) (ext : Ext), 5 ≤ n → n ≤ 16 →
        field.extractLsb' 0 5 = x.extractLsb' 0 5 → t.effImm field ext = x := by
  obtain ⟨j, hj, hrow, hword⟩ := withLowImmediate_of_prefixable x hi
  refine ⟨j, _, ?expand, hrow, hword, exec_pfix_k _ hp,
    fun _ _ ext _ _ hf => effImm_latched_operand ext rfl rfl hf⟩
  case expand => rw [AsmSource.expand, hj, Option.map_some]

/-! `nop` -/

/-- Moving a register to itself changes no register. -/
theorem regsKept_of_written_back {t : State} {r : Reg} (hr : t.reg r = s.reg r)
    (hothers : RegsKeptBut s t r) : RegsKept s t := by
  intro q
  by_cases hq : q = r
  · rw [hq, hr]
  · exact hothers q hq

theorem nop_effect (hp : s.pfx.valid = false) :
    ∃ t, exec (.mov_rr .r0 .r0) s = .next t ∧ RegsKept s t ∧ t.sp = s.sp ∧ t.sr = s.sr ∧
      MemoryKept s t ∧ MachineKept s t ∧ Advanced s t := by
  obtain ⟨t, ht, hr, hothers, hrest⟩ := writesReg_unlessPrefixed .r0 (s.reg .r0) hp
  exact ⟨t, ht, regsKept_of_written_back hr hothers, hrest⟩

/-! `lsl` -/

theorem aluAdd_self_r_toNat (a : Word) (cin : Bool) :
    (aluAdd a a cin).r.toNat = (2 * a.toNat + cin.toNat) % 65536 := by
  rw [aluAdd_r_toNat, Nat.two_mul]

/-- Doubling carries bit 15 out, whatever comes in. -/
theorem aluAdd_self_c (a : Word) (cin : Bool) : (aluAdd a a cin).c = a.getLsbD 15 := by
  have hc := cin.toNat_le
  rw [Bool.eq_iff_iff, aluAdd_c_iff, bit15_eq_decide, decide_eq_true_eq]
  omega

/-! `sel` on `ule` and `le` -/

/-- Selecting with the sources exchanged is selecting on the opposite condition. -/
theorem select_opposite {cc : Cond} {P : Prop} [Decidable P] (rs rn rd : Reg)
    (hp : s.pfx.valid = false) (hP : condHolds cc s.sr = false ↔ P) :
    WritesReg s (exec (.sel_crrr cc rn rs rd) s) rd (if P then s.reg rs else s.reg rn) := by
  have hv : (if P then s.reg rs else s.reg rn) =
      if condHolds cc s.sr then s.reg rn else s.reg rs := by
    cases hc : condHolds cc s.sr <;> simp [← hP, hc]
  rw [hv]
  exact writesReg_unlessPrefixed rd _ hp

end

end Sys2Proof.Claims
end

section
/-! PROOFS. The statements about the encoding, PFX and the assembler's expansions
(spec/30_encoding.md R60 to R84; spec/44_three_reg.md R147; spec/45_two_reg.md R153). -/

namespace Sys2Proof.Claims

open Sys2Proof.Machine Sys2Proof.Laws

/-- Settles O2: the decoder undoes the encoder on every row. -/
theorem decodeOfEncodeIsTheInstruction : Obligations.DecodeOfEncodeIsTheInstruction :=
  decode_encode

/-- Settles O4: the one instruction a word decodes to encodes to its used bits. -/
theorem encodeOfDecodeKeepsTheUsedBits : Obligations.EncodeOfDecodeKeepsTheUsedBits :=
  fun _ _ => encode_of_decode

/-- Settles O3: every word decodes; the instruction has the used bits of the word, so its row, and
any row the word lies in is the one it decodes to. -/
theorem everyWordBelongsToExactlyOneRow : Obligations.EveryWordBelongsToExactlyOneRow := by
  intro w
  obtain ⟨i, hd, henc⟩ := decode_roundTrips w
  exact ⟨i, hd, matches_of_used henc, fun _ hj => row_of_matches hd hj⟩

/-- Settles O5: the word with the same used bits lies in the same row, so it decodes to an
instruction with the same encoding, and encoding drops nothing. -/
theorem unusedBitsAreIgnored : Obligations.UnusedBitsAreIgnored := by
  intro w w' i hd _ hu
  have hi : encode i = w' &&& i.opcodeRow.used := by rw [encode_of_decode hd, hu]
  obtain ⟨k, hk, henc⟩ := decode_roundTrips w'
  have hrow : i.opcodeRow = k.opcodeRow := row_of_matches hk (matches_of_used hi)
  have hki : k = i := encode_injective (by rw [henc, ← hrow, hi])
  rw [hk, hki]

/-- Settles O20: an instruction without an immediate checks first; one with an immediate has no such
refusal among its answers. -/
theorem prefixMisuseIsRefusedFirst : Obligations.PrefixMisuseIsRefusedFirst :=
  fun _ s => ⟨exec_misuse, notMisuse_exec s⟩

/-- Settles O26: the immediate of the move is the operand the latch and the field make. -/
theorem prefixedMoveLoadsAnyWord : Obligations.PrefixedMoveLoadsAnyWord := by
  intro s x field rd hp hf
  refine ⟨_, _, exec_pfix_k _ hp, rfl, ?value, ?others, rfl, ?pc, rfl, rfl, fun _ => rfl⟩
  case value =>
    rw [retire_reg, setReg_reg_self]
    exact effImm_latched_operand _ rfl rfl hf
  case others =>
    intro q hq
    rw [retire_reg, setReg_reg_other _ _ hq]
    rfl
  case pc =>
    rw [retire_pc, next_eq_pc_add_one, setReg_pc, next_eq_pc_add_one]
    exact BitVec.add_assoc ..

/-- Settles O33: both write one register where PFX is not valid, and check for it first. -/
theorem selectAndSetByCondition : Obligations.SelectAndSetByCondition := by
  intro s cc rs rn rd x
  exact ⟨decode_formatSelect cc rn rs rd, decode_formatSet cc x rd,
    fun hp => ⟨writesReg_unlessPrefixed rd _ hp, writesReg_unlessPrefixed rd _ hp⟩,
    fun hp => ⟨exec_misuse hp rfl, exec_misuse hp rfl⟩⟩

/-- Settles O54: a word lies in the row of the instruction it decodes to and in no other, and the
word such an instruction encodes to is the whole word it came from. -/
theorem reservedAndNotImplementedWordsFault : Obligations.ReservedAndNotImplementedWordsFault := by
  intro w i s hd
  refine ⟨(implemented_eq_false_iff_matches hd).trans matches_illegal_iff, fun hi hp => ?fault⟩
  case fault =>
    have hw : encode i = w := by
      rw [encode_of_decode hd, used_of_not_implemented hi, BitVec.and_allOnes]
    rw [exec_of_not_implemented s hi, hw]
    exact unlessPrefixed_of_not s _ hp

theorem core_expand (i : Instr) (hi : i.implemented = true) (hp : i.isPrefix = false) :
    (AsmSource.core i).expand = some [i] := by
  simp [AsmSource.expand, hi, hp]

/-- Settles O60: `nop` writes R0 back, `lsl` is a doubling, the two selects are on opposite
conditions (R28), and the form with a 16-bit operand keeps everything but the field. -/
theorem assemblerExpansionsDoWhatTheyName : Obligations.AssemblerExpansionsDoWhatTheyName := by
  refine ⟨core_expand, fun s rs rn rd hp => ?_⟩
  obtain ⟨-, -, -, -, -, -, -, -, hule, hle⟩ := conditionsReadTheFlags s.sr
  exact ⟨rfl, rfl, nop_effect hp,
    rfl, writesRegAndFlags_unlessPrefixed rd _ hp, aluAdd_self_r_toNat _ false,
    aluAdd_self_c _ false,
    writesRegAndFlags_unlessPrefixed rd _ hp, aluAdd_self_r_toNat _ _, aluAdd_self_c _ _,
    rfl, select_opposite rs rn rd hp hule, rfl, select_opposite rs rn rd hp hle,
    fun _ x hi => long_form x hp hi⟩

end Sys2Proof.Claims
end

section
/-! SUPPORT. Where a word access stops, in the terms of the statements (spec/20_memory.md R42 to
R44), and the stack operations built on it (spec/45_two_reg.md R170, R175). -/

namespace Sys2Proof.Claims

open Sys2Proof.Machine

section
variable {c : Config} {s u : State} {a v : Word} {o : Result} {done : Prop}

/-! Where a word access stops -/

theorem dataStop_of_not_present (h : ¬Present c a) : dataStop c a = some (.dataOutOfRange a) :=
  if_pos (Nat.not_lt.1 h)

/-- A word with a byte that does not exist is refused for the first such byte. -/
theorem wordStop_of_not_presentWord (h : ¬PresentWord c a) :
    ¬Present c a ∧ wordStop c a = some (.dataOutOfRange a) ∨
      ¬Present c (a + 1) ∧ wordStop c a = some (.dataOutOfRange (a + 1)) := by
  by_cases hfirst : Present c a
  · have hsecond : ¬Present c (a + 1) := fun hs => h ⟨hfirst, hs⟩
    right
    refine ⟨hsecond, ?_⟩
    rw [wordStop, dataStop_eq_none_iff.2 hfirst]
    exact dataStop_of_not_present hsecond
  · left
    refine ⟨hfirst, ?_⟩
    rw [wordStop, dataStop_of_not_present hfirst]

/-- An answer that stops where the word at `a` has no base or is out of range stops as R42 to R44
say. -/
theorem wordAccess_of_stops (hdone : IsEven a → PresentWord s.cfg a → done)
    (hodd : wordBase s.cfg a = none → o = .fault (.misaligned a))
    (habsent : ∀ r, wordBase s.cfg a = some a → wordStop s.cfg a = some r → o = .refused r) :
    WordAccess s o a done := by
  refine ⟨hdone, fun ho hc => hodd (wordBase_of_not_isEven ho hc), fun he hn => ?_⟩
  have hbase := wordBase_of_even s.cfg a (isEven_iff.1 he)
  exact (wordStop_of_not_presentWord hn).imp
    (fun ⟨hfirst, hstop⟩ => ⟨hfirst, habsent _ hbase hstop⟩)
    (fun ⟨hsecond, hstop⟩ => ⟨hsecond, habsent _ hbase hstop⟩)

theorem writeWord_refused {b : Word} {r : Refusal} (hbase : wordBase s.cfg a = some b)
    (hstop : wordStop s.cfg b = some r) : s.writeWord a v = .error (.refused r) := by
  simp [State.writeWord, hbase, hstop]

/-- An instruction that goes on after storing a word stops where the store does. The store may start
from another state `u` than the instruction. -/
theorem wordAccess_writeWord {k : State → Result} (hcfg : u.cfg = s.cfg)
    (hdone : IsEven a → PresentWord s.cfg a → done) :
    WordAccess s (andThen (u.writeWord a v) k) a done := by
  refine wordAccess_of_stops hdone (fun hbase => ?_) (fun r hbase hstop => ?_)
  · rw [writeWord_misaligned u a v (hcfg ▸ hbase)]
    rfl
  · rw [writeWord_refused (hcfg ▸ hbase) (hcfg ▸ hstop)]
    rfl

/-! Push -/

theorem pushWord_of_present (he : IsEven s.pushAddr) (h : PresentWord s.cfg s.pushAddr) :
    s.pushWord v = .ok (((s.setSp s.pushAddr).setWord s.pushAddr v).note
      [s.pushAddr, s.pushAddr + 1] (.writeWord s.pushAddr v)) :=
  writeWord_of_present (s := s.setSp s.pushAddr) he h

theorem pushWord_of_plain (he : IsEven s.pushAddr) (h : PlainWord s.cfg s.pushAddr) :
    s.pushWord v = .ok ((s.setSp s.pushAddr).setWord s.pushAddr v) :=
  writeWord_of_plain (s := s.setSp s.pushAddr) he h

/-- What every push ends with (R170): the word at the new SP, and PC at `target`, which may depend
on the state the push leaves, as the next word does. -/
theorem pushesAndGoesTo_pushWord (s : State) (v : Word) {target : Word} {dest : State → Word}
    (hdest : ∀ u, u.pc = s.pc → dest u = target) :
    PushesAndGoesTo s (andThen (s.pushWord v) fun u => .next (u.jump (dest u))) v target := by
  refine wordAccess_writeWord rfl fun he hp => ?_
  have hkept : MachineKeptBy (.writeWord s.pushAddr v) (WordInRegion s.cfg s.pushAddr) s
      (((s.setSp s.pushAddr).setWord s.pushAddr v).note [s.pushAddr, s.pushAddr + 1]
        (.writeWord s.pushAddr v)) :=
    machineKeptBy_note_word (machineKept_setWord (s.setSp s.pushAddr) s.pushAddr v)
  rw [pushWord_of_present he hp, andThen_ok]
  exact ⟨_, rfl, rfl, wordStored_setWord (s.setSp s.pushAddr) s.pushAddr v, fun _ => rfl, rfl,
    hkept, hdest _ rfl, rfl⟩

/-- A call pushes the address of the next word (R91, R169). -/
theorem pushesAndGoesTo_callTo (s : State) (target : Word) :
    PushesAndGoesTo s (s.callTo target) (s.pc + 1) target := by
  rw [← next_eq_pc_add_one]
  exact pushesAndGoesTo_pushWord s s.next fun _ _ => rfl

/-! Call and return in plain memory -/

theorem callTo_of_plain (target : Word) (he : IsEven s.pushAddr)
    (h : PlainWord s.cfg s.pushAddr) :
    s.callTo target =
      .next (((s.setSp s.pushAddr).setWord s.pushAddr s.next).jump target) := by
  rw [State.callTo, pushWord_of_plain he h, andThen_ok]

theorem exec_ret_of_plain (hp : s.pfx.valid = false) (he : IsEven s.sp)
    (h : PlainWord s.cfg s.sp) :
    exec .ret s = .next ((s.setSp s.poppedSp).jump
      (joinBytes s.cfg.endian (s.dmByte s.sp) (s.dmByte (s.sp + 1)))) := by
  change s.unlessPrefixed _ = _
  rw [unlessPrefixed_of_not s _ hp, readWord_of_plain he h, andThen_ok]

/-- The two bytes of a stored word join to it. -/
theorem joinBytes_setWord (s : State) (a v : Word) :
    joinBytes s.cfg.endian ((s.setWord a v).dmByte a) ((s.setWord a v).dmByte (a + 1)) = v := by
  rw [setWord_dmByte_first, setWord_dmByte_second, joinBytes_split]

/-- A pop moves SP back to where it was before the push. -/
theorem pushAddr_add_stackStep (s : State) : s.pushAddr + s.cfg.stackStep = s.sp :=
  BitVec.sub_add_cancel s.sp s.cfg.stackStep

end

end Sys2Proof.Claims
end

section
/-! PROOFS. The statements about format P (spec/40_prefix_call.md R90, R91) and `call Rd`
(spec/45_two_reg.md R169). -/

namespace Sys2Proof.Claims

open Sys2Proof.Machine Sys2Proof.Laws

theorem decode_call_r (x : BitVec 3) (rd : Reg) :
    decode (formatR2 0b0000001010#10 x rd.bits) = .ok (.call_r rd) := by
  rw [decode_formatR2 _ _ _ rfl]
  simp [decodeR2, decodeIndirect]

/-- Settles O29: where PFX is not valid nothing but the latch and PC is written. -/
theorem prefixInstructionLoadsTheLatch : Obligations.PrefixInstructionLoadsTheLatch := by
  intro s k
  exact ⟨decode_encode (.pfix_k k), fun hp => ⟨_, exec_pfix_k k hp, rfl, next_eq_pc_add_one s,
    fun _ => rfl, rfl, rfl, fun _ => rfl, ⟨rfl, rfl, rfl, rfl⟩⟩⟩

/-- Settles O30: both are the call to their target, `call Rd` after the check of PFX. -/
theorem callsPushTheReturnAddress : Obligations.CallsPushTheReturnAddress := by
  intro s a rd x
  refine ⟨decode_encode (.call a), pushesAndGoesTo_callTo s _, decode_call_r x rd, fun hp => ?_⟩
  change PushesAndGoesTo s (s.unlessPrefixed _) _ _
  rw [unlessPrefixed_of_not s _ hp]
  exact pushesAndGoesTo_callTo s _

/-- Settles O59: the call leaves SP at the return address and PFX not valid, so the return reads
that word back and moves SP up again. -/
theorem callThenReturnComesBack : Obligations.CallThenReturnComesBack := by
  intro s a he hp
  refine ⟨_, _, callTo_of_plain (s.callTarget a) he hp, rfl, exec_ret_of_plain rfl he hp, ?pc,
    pushAddr_add_stackStep s, fun _ => rfl, rfl⟩
  case pc =>
    rw [jump_pc, ← next_eq_pc_add_one]
    exact joinBytes_setWord (s.setSp s.pushAddr) s.pushAddr s.next

end Sys2Proof.Claims
end

section
/-! SUPPORT. Loads and stores at an address, however the instruction makes it (spec/20_memory.md R42
to R45): where each stops, and what it writes where it completes. -/

namespace Sys2Proof.Claims

open Sys2Proof.Machine

section
variable {s : State} {a v : Word} {done : Prop}

/-! Where a load or a byte store stops -/

theorem readWord_refused {b : Word} {r : Refusal} (hbase : wordBase s.cfg a = some b)
    (hstop : wordStop s.cfg b = some r) : s.readWord a = .error (.refused r) := by
  simp [State.readWord, hbase, hstop]

theorem readByte_of_not_present (h : ¬Present s.cfg a) :
    s.readByte a = .error (.refused (.dataOutOfRange a)) := by
  simp [State.readByte, dataStop_of_not_present h]

theorem writeByte_of_not_present (h : ¬Present s.cfg a) :
    s.writeByte a v = .error (.refused (.dataOutOfRange a)) := by
  simp [State.writeByte, dataStop_of_not_present h]

/-- An instruction that goes on after reading a word stops where the read does. -/
theorem wordAccess_readWord {k : Word × State → Result}
    (hdone : IsEven a → PresentWord s.cfg a → done) :
    WordAccess s (andThen (s.readWord a) k) a done := by
  refine wordAccess_of_stops hdone (fun hbase => ?_) (fun r hbase hstop => ?_)
  · rw [readWord_misaligned s a hbase]
    rfl
  · rw [readWord_refused hbase hstop]
    rfl

/-- An instruction that goes on after reading a byte stops where the read does. -/
theorem byteAccess_readByte {k : Byte × State → Result} (hdone : Present s.cfg a → done) :
    ByteAccess s (andThen (s.readByte a) k) a done := by
  refine ⟨hdone, fun hn => ⟨hn, ?_⟩⟩
  rw [readByte_of_not_present hn]
  rfl

/-- An instruction that goes on after storing a byte stops where the store does. -/
theorem byteAccess_writeByte {k : State → Result} (hdone : Present s.cfg a → done) :
    ByteAccess s (andThen (s.writeByte a v) k) a done := by
  refine ⟨hdone, fun hn => ⟨hn, ?_⟩⟩
  rw [writeByte_of_not_present hn]
  rfl

/-! Whole instructions over memory -/

/-- A load ends by writing its register, after the regions have seen the access. -/
theorem loadsReg_retire {x : RegionAccess} {touches : Prop} {l : List Word} (rd : Reg)
    (hx : MachineKeptBy x touches s (s.note l x)) :
    LoadsReg x touches s (.next ((s.note l x).setReg rd v).retire) rd v :=
  ⟨_, rfl, setReg_reg_self (s.note l x) rd v, fun _ hq => setReg_reg_other (s.note l x) v hq, rfl,
    rfl, fun _ => rfl, hx, advanced_retire rfl⟩

theorem loadsWord_loadWord (s : State) (ea : Word) (rd : Reg) :
    LoadsWord s (s.loadWord ea rd) ea rd := by
  refine wordAccess_readWord fun he hp => ?_
  rw [State.loadWord, readWord_of_present he hp, andThen_ok]
  exact loadsReg_retire rd (machineKeptBy_note_word (machineKept_refl s))

/-- A byte load under either extension. -/
theorem byteAccess_loadByte (s : State) (ea : Word) (ext : Ext) (rd : Reg) :
    ByteAccess s (s.loadByte ea ext rd) ea
      (LoadsReg (.readByte ea) (InRegion s.cfg ea) s (s.loadByte ea ext rd) rd
        (extend ext (byteAt s ea))) := by
  refine byteAccess_readByte fun hp => ?_
  rw [State.loadByte, readByte_of_present hp, andThen_ok]
  exact loadsReg_retire rd (machineKeptBy_note_byte (machineKept_refl s))

theorem loadsByteZext_loadByte (s : State) (ea : Word) (rd : Reg) :
    LoadsByteZext s (s.loadByte ea .zext rd) ea rd :=
  byteAccess_loadByte s ea .zext rd

theorem loadsByteSext_loadByte (s : State) (ea : Word) (rd : Reg) :
    LoadsByteSext s (s.loadByte ea .sext rd) ea rd :=
  byteAccess_loadByte s ea .sext rd

theorem storesWord_storeWord (s : State) (ea v : Word) :
    StoresWord s (s.storeWord ea v) ea v := by
  refine wordAccess_writeWord rfl fun he hp => ?_
  rw [State.storeWord, writeWord_of_present he hp, andThen_ok]
  exact ⟨_, rfl, wordStored_setWord s ea v, fun _ => rfl, rfl, rfl,
    machineKeptBy_note_word (machineKept_setWord s ea v), advanced_retire rfl⟩

theorem storesByte_storeByte (s : State) (ea v : Word) :
    StoresByte s (s.storeByte ea v) ea v := by
  refine byteAccess_writeByte fun hp => ?_
  rw [State.storeByte, writeByte_of_present hp, andThen_ok]
  exact ⟨_, rfl, byteStored_setByte s ea (lowByte v), fun _ => rfl, rfl, rfl,
    machineKeptBy_note_byte (machineKept_setByte s ea (lowByte v)), advanced_retire rfl⟩

end

end Sys2Proof.Claims
end

section
/-! PROOFS. The statements about format I1 (spec/41_mem_imm_offset.md R96 to R101), and the other
immediates that are only written to a register (spec/42_imm8.md R106, R115). -/

namespace Sys2Proof.Claims

open Sys2Proof.Machine Sys2Proof.Laws

/-- Settles O31: each of the three writes its value to Rd and ends. -/
theorem leaAndMoveImmediate : Obligations.LeaAndMoveImmediate := by
  intro s rs rd k5 k8
  exact ⟨decode_encode (.lea_mr rs k5 rd), writesReg_retire s rd _,
    decode_encode (.mov_kr k8 rd), writesReg_retire s rd _,
    decode_encode (.lea_qr k8 rd), writesReg_retire s rd _⟩

/-- Settles O41: each is the load of its width and extension at Rs + K. -/
theorem loadsWithImmediateOffset : Obligations.LoadsWithImmediateOffset := by
  intro s rs rd k
  exact ⟨decode_encode (.movw_mr rs k rd), loadsWord_loadWord s _ rd,
    decode_encode (.movzb_mr rs k rd), loadsByteZext_loadByte s _ rd,
    decode_encode (.movsb_mr rs k rd), loadsByteSext_loadByte s _ rd⟩

/-- Settles O42: each is the store of its width at Rs + K. -/
theorem storesWithImmediateOffset : Obligations.StoresWithImmediateOffset := by
  intro s rs rd k
  exact ⟨decode_encode (.movw_rm rd rs k), storesWord_storeWord s _ _,
    decode_encode (.movb_rm rd rs k), storesByte_storeByte s _ _⟩

end Sys2Proof.Claims
end

section
/-! PROOFS. The statements about the arithmetic, the loads and the stores of format I2
(spec/42_imm8.md R107 to R109, R111 to R114, R116 to R119). Each has an immediate, so none checks
PFX first, and each completes or stops in every state as the operation it ends with does. -/

namespace Sys2Proof.Claims

open Sys2Proof.Machine Sys2Proof.Laws

/-- What a compare ends with: no register is written, only the flags of the difference. -/
theorem writesFlags_retire (s : State) (x : Alu) : WritesFlags s (.next (s.setArith x).retire) x :=
  ⟨_, rfl, fun _ => rfl, rfl, rfl, fun _ => rfl, ⟨rfl, rfl, rfl, rfl⟩, advanced_retire rfl⟩

/-- Settles O36: `cmp` writes the flags alone, `add` and `sub` their result with them. -/
theorem immediateArithmetic : Obligations.ImmediateArithmetic := by
  intro s rd k
  exact ⟨decode_encode (.cmp_rk rd k), writesFlags_retire s _,
    decode_encode (.add_kr rd k), writesRegAndFlags_retire s rd _,
    decode_encode (.sub_kr rd k), writesRegAndFlags_retire s rd _⟩

/-- Settles O43: each is the load of its width at `&A` or at SP + K. -/
theorem loadsAbsoluteAndFromTheStack : Obligations.LoadsAbsoluteAndFromTheStack := by
  intro s rd k
  exact ⟨decode_encode (.movw_ar k rd), loadsWord_loadWord s (s.eaAbs k) rd,
    decode_encode (.movsb_ar k rd), loadsByteSext_loadByte s (s.eaAbs k) rd,
    decode_encode (.movw_qr k rd), loadsWord_loadWord s (s.eaSp k) rd,
    decode_encode (.movsb_qr k rd), loadsByteSext_loadByte s (s.eaSp k) rd⟩

/-- Settles O44: each is the store of its width at `&A` or at SP + K. -/
theorem storesAbsoluteAndToTheStack : Obligations.StoresAbsoluteAndToTheStack := by
  intro s rd k
  exact ⟨decode_encode (.movw_ra rd k), storesWord_storeWord s (s.eaAbs k) (s.reg rd),
    decode_encode (.movb_ra rd k), storesByte_storeByte s (s.eaAbs k) (s.reg rd),
    decode_encode (.movw_rq rd k), storesWord_storeWord s (s.eaSp k) (s.reg rd),
    decode_encode (.movb_rq rd k), storesByte_storeByte s (s.eaSp k) (s.reg rd)⟩

end Sys2Proof.Claims
end

section
/-! PROOFS. The statements about format J and the conditional branch (spec/43_branch_addsp.md R125 to
R128), with `mov Rs, SP` and `jmp Rd` (spec/45_two_reg.md R155, R168), which end as `add SP` and
`jmp Label` do. -/

namespace Sys2Proof.Claims

open Sys2Proof.Machine Sys2Proof.Laws

section
variable {s : State} {cc : Cond}

/-! The target of a branch, under each `BR_BASE` -/

theorem branchTarget_of_nextWord (a : BitVec 9) (h : s.cfg.brBase = .nextWord) :
    s.branchTarget a = s.pc + 1 + s.effImm a .sext := by
  simp only [State.branchTarget, State.branchFrom, h, next_eq_pc_add_one]

theorem branchTarget_of_branchWord (a : BitVec 9) (h : s.cfg.brBase = .branchWord) :
    s.branchTarget a = s.pc + s.effImm a .sext := by
  simp only [State.branchTarget, State.branchFrom, h]

/-! What the instructions answer -/

theorem exec_br_ck_taken (a : BitVec 9) (h : condHolds cc s.sr = true) :
    exec (.br_ck cc a) s = .next (s.jump (s.branchTarget a)) :=
  congrArg Host.Outcome.next (if_pos h)

theorem exec_br_ck_not_taken (a : BitVec 9) (h : condHolds cc s.sr = false) :
    exec (.br_ck cc a) s = .next (s.jump s.next) :=
  congrArg Host.Outcome.next (if_neg (Bool.eq_false_iff.1 h))

theorem exec_mov_rq (rs : Reg) (hp : s.pfx.valid = false) :
    exec (.mov_rq rs) s = .next (s.setSp (s.reg rs)).retire :=
  unlessPrefixed_of_not s _ hp

theorem exec_jmp_r (rd : Reg) (hp : s.pfx.valid = false) :
    exec (.jmp_r rd) s = .next (s.jump (s.reg rd)) :=
  unlessPrefixed_of_not s _ hp

/-! What an answer of each of the two kinds does, and what it leaves alone -/

theorem goesTo_jump (s : State) (target : Word) : GoesTo s (.next (s.jump target)) target :=
  ⟨_, rfl, rfl, rfl, fun _ => rfl, rfl, rfl, fun _ => rfl, ⟨rfl, rfl, rfl, rfl⟩⟩

theorem writesSp_retire (s : State) (v : Word) : WritesSp s (.next (s.setSp v).retire) v :=
  ⟨_, rfl, rfl, fun _ => rfl, rfl, fun _ => rfl, ⟨rfl, rfl, rfl, rfl⟩, advanced_retire rfl⟩

end

/-! The words with a field that the instruction does not use -/

theorem decode_mov_rq (rs : Reg) (x : BitVec 3) :
    decode (formatR2 0b0000001000#10 rs.bits x) = .ok (.mov_rq rs) := by
  rw [decode_formatR2 _ _ _ rfl]
  simp [decodeR2, decodeMoves]

theorem decode_jmp_r (x : BitVec 3) (rd : Reg) :
    decode (formatR2 0b0000000010#10 x rd.bits) = .ok (.jmp_r rd) := by
  rw [decode_formatR2 _ _ _ rfl]
  simp [decodeR2, decodeIndirect]

/-- Settles O35: both write SP and end, `mov Rs, SP` after the check of PFX. -/
theorem stackPointerMoves : Obligations.StackPointerMoves := by
  intro s k rs x
  refine ⟨decode_encode (.add_kq k), writesSp_retire s _, decode_mov_rq rs x, fun hp => ?_⟩
  rw [exec_mov_rq rs hp]
  exact writesSp_retire s _

/-- Settles O47: by the condition, and where it holds by the base of the branch. -/
theorem conditionalBranch : Obligations.ConditionalBranch := by
  intro s cc a
  refine ⟨decode_formatBranch cc a, fun hc hb => ?_, fun hc hb => ?_, fun hc => ?_⟩
  · rw [exec_br_ck_taken a hc, branchTarget_of_nextWord a hb]
    exact goesTo_jump s _
  · rw [exec_br_ck_taken a hc, branchTarget_of_branchWord a hb]
    exact goesTo_jump s _
  · rw [exec_br_ck_not_taken a hc, next_eq_pc_add_one]
    exact goesTo_jump s _

/-- Settles O48: `jmp Label` by the base of the branch; `jmp Rd` after the check of PFX. -/
theorem unconditionalJumps : Obligations.UnconditionalJumps := by
  intro s a rd x
  have hlabel : GoesTo s (exec (.jmp_k a) s) (s.branchTarget a) := goesTo_jump s _
  refine ⟨decode_encode (.jmp_k a), fun hb => ?_, fun hb => ?_, decode_jmp_r x rd, fun hp => ?_⟩
  · rwa [branchTarget_of_nextWord a hb] at hlabel
  · rwa [branchTarget_of_branchWord a hb] at hlabel
  · rw [exec_jmp_r rd hp]
    exact goesTo_jump s _

end Sys2Proof.Claims
end

section
/-! SUPPORT. The three-register instructions where PFX is not valid (spec/44_three_reg.md R132):
what each answers, the borrow of `subc` and `cmpc` under each `SUBC_BORROW` (R136), and the words
with a field that the instruction does not use. -/

namespace Sys2Proof.Claims

open Sys2Proof.Machine Sys2Proof.Laws

section
variable {s : State}

/-! The words of the two compares, whose lowest field is not used -/

theorem decode_cmp_rr (rs rn : Reg) (x : BitVec 3) :
    decode (formatR1 0b0010000#7 rn.bits rs.bits x) = .ok (.cmp_rr rs rn) := by
  rw [decode_formatR1 _ _ _ _ rfl]
  simp [decodeR1]

theorem decode_cmpc_rr (rs rn : Reg) (x : BitVec 3) :
    decode (formatR1 0b0010001#7 rn.bits rs.bits x) = .ok (.cmpc_rr rs rn) := by
  rw [decode_formatR1 _ _ _ _ rfl]
  simp [decodeR1]

/-! The borrow in -/

theorem borrowIn_of_literal (h : s.cfg.subcBorrow = .literal) : s.borrowIn = s.sr.c := by
  simp only [State.borrowIn, h]

theorem borrowIn_of_chained (h : s.cfg.subcBorrow = .chained) : s.borrowIn = !s.sr.c := by
  simp only [State.borrowIn, h]

/-! Arithmetic -/

theorem writesFlags_unlessPrefixed (x : Alu) (hp : s.pfx.valid = false) :
    WritesFlags s (s.unlessPrefixed (.next (s.setArith x).retire)) x := by
  rw [unlessPrefixed_of_not s _ hp]
  exact writesFlags_retire s x

theorem add_rrr_writes (rs rn rd : Reg) (hp : s.pfx.valid = false) :
    WritesRegAndFlags s (exec (.add_rrr rs rn rd) s) rd (aluAdd (s.reg rs) (s.reg rn) false) :=
  writesRegAndFlags_unlessPrefixed rd _ hp

theorem adc_rrr_writes (rs rn rd : Reg) (hp : s.pfx.valid = false) :
    WritesRegAndFlags s (exec (.adc_rrr rs rn rd) s) rd (aluAdd (s.reg rs) (s.reg rn) s.sr.c) :=
  writesRegAndFlags_unlessPrefixed rd _ hp

theorem sub_rrr_writes (rs rn rd : Reg) (hp : s.pfx.valid = false) :
    WritesRegAndFlags s (exec (.sub_rrr rs rn rd) s) rd (aluSub (s.reg rs) (s.reg rn) false) :=
  writesRegAndFlags_unlessPrefixed rd _ hp

theorem subc_rrr_writes (rs rn rd : Reg) (hp : s.pfx.valid = false) :
    WritesRegAndFlags s (exec (.subc_rrr rs rn rd) s) rd
      (aluSub (s.reg rs) (s.reg rn) s.borrowIn) :=
  writesRegAndFlags_unlessPrefixed rd _ hp

/-! Loads and stores at Rs + Rn (R142) -/

theorem exec_movw_nr (rs rn rd : Reg) (hp : s.pfx.valid = false) :
    exec (.movw_nr rs rn rd) s = s.loadWord (s.reg rs + s.reg rn) rd :=
  unlessPrefixed_of_not s _ hp

theorem exec_movzb_nr (rs rn rd : Reg) (hp : s.pfx.valid = false) :
    exec (.movzb_nr rs rn rd) s = s.loadByte (s.reg rs + s.reg rn) .zext rd :=
  unlessPrefixed_of_not s _ hp

theorem exec_movsb_nr (rs rn rd : Reg) (hp : s.pfx.valid = false) :
    exec (.movsb_nr rs rn rd) s = s.loadByte (s.reg rs + s.reg rn) .sext rd :=
  unlessPrefixed_of_not s _ hp

theorem exec_movw_rn (rd rs rn : Reg) (hp : s.pfx.valid = false) :
    exec (.movw_rn rd rs rn) s = s.storeWord (s.reg rs + s.reg rn) (s.reg rd) :=
  unlessPrefixed_of_not s _ hp

theorem exec_movb_rn (rd rs rn : Reg) (hp : s.pfx.valid = false) :
    exec (.movb_rn rd rs rn) s = s.storeByte (s.reg rs + s.reg rn) (s.reg rd) :=
  unlessPrefixed_of_not s _ hp

end

end Sys2Proof.Claims
end

section
/-! SUPPORT. Arithmetic on values of two words (spec/44_three_reg.md R136, R140): what the two
halves of a sum or a difference join to, and what a second instruction sees of a first that writes
the low half. -/

namespace Sys2Proof.Claims

open Sys2Proof.Machine

section
variable {s : State}

/-! One word: the result and C together are the exact sum or difference -/

theorem aluAdd_exact (a b : Word) (cin : Bool) :
    (aluAdd a b cin).r.toNat + 65536 * (aluAdd a b cin).c.toNat =
      a.toNat + b.toNat + cin.toNat := by
  have ha := a.isLt
  have hb := b.isLt
  have hcin := cin.toNat_le
  rw [aluAdd_r_toNat]
  by_cases h : 65536 ≤ a.toNat + b.toNat + cin.toNat
  · rw [(aluAdd_c_iff a b cin).2 h, Bool.toNat_true]
    omega
  · rw [Bool.eq_false_iff.2 (mt (aluAdd_c_iff a b cin).1 h), Bool.toNat_false]
    omega

/-- C = 1 means no borrow, so it is the complement of C that counts. -/
theorem aluSub_exact (a b : Word) (bin : Bool) :
    (aluSub a b bin).r.toNat + b.toNat + bin.toNat =
      a.toNat + 65536 * (!(aluSub a b bin).c).toNat := by
  have hr := aluSub_r_toNat a b bin
  have ha := a.isLt
  have hb := b.isLt
  have hbin := bin.toNat_le
  by_cases h : b.toNat + bin.toNat ≤ a.toNat
  · rw [(aluSub_c_iff a b bin).2 h, Bool.not_true, Bool.toNat_false]
    omega
  · rw [Bool.eq_false_iff.2 (mt (aluSub_c_iff a b bin).1 h), Bool.not_false, Bool.toNat_true]
    omega

/-! Two words -/

theorem pair_lt (s : State) (hi lo : Reg) : pair s hi lo < 4294967296 := by
  have hhi := (s.reg hi).isLt
  have hlo := (s.reg lo).isLt
  unfold pair
  omega

/-- The carry of the low halves goes into the high ones, and that of the high ones is left. -/
theorem aluAdd_halves (ah al bh bl : Word) {lo hi : Alu} (hlo : lo = aluAdd al bl false)
    (hhi : hi = aluAdd ah bh lo.c) :
    hi.r.toNat * 65536 + lo.r.toNat + 4294967296 * hi.c.toNat =
      ah.toNat * 65536 + al.toNat + (bh.toNat * 65536 + bl.toNat) := by
  have hlow := aluAdd_exact al bl false
  have hhigh := aluAdd_exact ah bh lo.c
  rw [← hlo, Bool.toNat_false] at hlow
  rw [← hhi] at hhigh
  omega

/-- The borrow of the low halves is taken from the high ones, and that of the high ones is left. -/
theorem aluSub_halves (ah al bh bl : Word) {lo hi : Alu} (hlo : lo = aluSub al bl false)
    (hhi : hi = aluSub ah bh !lo.c) :
    hi.r.toNat * 65536 + lo.r.toNat + (bh.toNat * 65536 + bl.toNat) =
      ah.toNat * 65536 + al.toNat + 4294967296 * (!hi.c).toNat := by
  have hlow := aluSub_exact al bl false
  have hhigh := aluSub_exact ah bh !lo.c
  rw [← hlo, Bool.toNat_false] at hlow
  rw [← hhi] at hhigh
  omega

/-- A value below 2^32 that makes the sum with the carry is the sum modulo 2^32. -/
theorem eq_mod_of_carry {p sum : Nat} {c : Bool} (hp : p < 4294967296)
    (h : p + 4294967296 * c.toNat = sum) :
    p = sum % 4294967296 ∧ (c = true ↔ 4294967296 ≤ sum) := by
  cases c with
  | false =>
    rw [Bool.toNat_false] at h
    simp only [Bool.false_eq_true, false_iff]
    omega
  | true =>
    rw [Bool.toNat_true] at h
    simp only [true_iff]
    omega

/-- A value below 2^32 that makes the difference with the borrow is the difference modulo 2^32. -/
theorem eq_mod_of_borrow {p a b : Nat} {c : Bool} (hp : p < 4294967296)
    (h : p + b = a + 4294967296 * (!c).toNat) :
    (p : Int) = ((a : Int) - b) % 4294967296 ∧ (c = true ↔ b ≤ a) := by
  cases c with
  | false =>
    rw [Bool.not_false, Bool.toNat_true] at h
    simp only [Bool.false_eq_true, false_iff]
    omega
  | true =>
    rw [Bool.not_true, Bool.toNat_false] at h
    simp only [true_iff]
    omega

/-! Two instructions -/

/-- What an instruction finds after one that wrote the result and the flags of `x`. -/
def FollowsWrite (s t : State) (rd : Reg) (x : Alu) : Prop :=
  t.pfx.valid = false ∧ t.cfg = s.cfg ∧ t.sr.c = x.c ∧ RegsKeptBut s t rd

/-- Where the low result does not overwrite the high one, two arithmetic instructions leave their
results in the pair and the carry of the second in C. -/
theorem writes_halves {i j : Instr} {dh dl : Reg} {x y : Alu}
    (hlow : WritesRegAndFlags s (exec i s) dl x) (hd : dl ≠ dh)
    (hhigh : ∀ t, FollowsWrite s t dl x → WritesRegAndFlags t (exec j t) dh y) :
    ∃ t u, exec i s = .next t ∧ exec j t = .next u ∧
      pair u dh dl = y.r.toNat * 65536 + x.r.toNat ∧ u.sr.c = y.c := by
  obtain ⟨t, ht, hdl, hkept, -, hsr, -, ⟨-, -, hcfg, -⟩, -, hpfx⟩ := hlow
  obtain ⟨u, hu, hdh, hkept', -, hsr', -, -, -⟩ :=
    hhigh t ⟨hpfx, hcfg, congrArg Status.c hsr, hkept⟩
  refine ⟨t, u, ht, hu, ?_, congrArg Status.c hsr'⟩
  rw [pair, hdh, hkept' dl hd, hdl]

end

end Sys2Proof.Claims
end

section
/-! PROOFS. The statements about the arithmetic, the loads and the stores of format R1
(spec/44_three_reg.md R133 to R136, R140 to R146), with `neg` (spec/45_two_reg.md R166). -/

namespace Sys2Proof.Claims

open Sys2Proof.Machine Sys2Proof.Laws

/-- Settles O55: the second instruction finds the high operands and the carry of the first. -/
theorem addThenAddcIsA32BitAddition : Obligations.AddThenAddcIsA32BitAddition := by
  intro s ah al bh bl dh dl hp hah hbh hd
  obtain ⟨t, u, ht, hu, hpair, hc⟩ := writes_halves (add_rrr_writes al bl dl hp) hd
    (j := .adc_rrr ah bh dh) fun t ⟨hpfx, _, hcarry, hkept⟩ => by
      have hwrites := adc_rrr_writes ah bh dh hpfx
      rwa [hkept ah hah.symm, hkept bh hbh.symm, hcarry] at hwrites
  have hsum := aluAdd_halves (s.reg ah) (s.reg al) (s.reg bh) (s.reg bl) rfl rfl
  rw [← hpair, ← hc] at hsum
  exact ⟨t, u, ht, hu, eq_mod_of_carry (pair_lt u dh dl) hsum⟩

/-- Settles O56: the second instruction finds the high operands, and borrows what the first did. -/
theorem subThenSubcIsA32BitSubtractionWhenChained :
    Obligations.SubThenSubcIsA32BitSubtractionWhenChained := by
  intro s ah al bh bl dh dl hp hchained hah hbh hd
  obtain ⟨t, u, ht, hu, hpair, hc⟩ := writes_halves (sub_rrr_writes al bl dl hp) hd
    (j := .subc_rrr ah bh dh) fun t ⟨hpfx, hcfg, hcarry, hkept⟩ => by
      have hwrites := subc_rrr_writes ah bh dh hpfx
      rwa [hkept ah hah.symm, hkept bh hbh.symm, borrowIn_of_chained (hcfg ▸ hchained), hcarry]
        at hwrites
  have hdiff := aluSub_halves (s.reg ah) (s.reg al) (s.reg bh) (s.reg bl) rfl rfl
  rw [← hpair, ← hc] at hdiff
  exact ⟨t, u, ht, hu, eq_mod_of_borrow (pair_lt u dh dl) hdiff⟩

/-- Settles O37: `cmp` writes the flags alone, the others their result with them. -/
theorem registerArithmetic : Obligations.RegisterArithmetic := by
  intro s rs rn rd x hp
  exact ⟨decode_cmp_rr rs rn x, writesFlags_unlessPrefixed _ hp,
    decode_encode (.sub_rrr rs rn rd), sub_rrr_writes rs rn rd hp,
    decode_encode (.adc_rrr rs rn rd), adc_rrr_writes rs rn rd hp,
    decode_encode (.add_rrr rs rn rd), add_rrr_writes rs rn rd hp,
    decode_encode (.neg_rr rs rd), writesRegAndFlags_unlessPrefixed rd _ hp⟩

/-- Settles O38: under either `SUBC_BORROW` the borrow named is the one the machine takes. -/
theorem subtractWithCarryUnderBothBorrowSenses :
    Obligations.SubtractWithCarryUnderBothBorrowSenses := by
  intro s rs rn rd x bin hp hbin
  have hborrow : bin = s.borrowIn := by
    obtain ⟨hsense, rfl⟩ | ⟨hsense, rfl⟩ := hbin
    · exact (borrowIn_of_literal hsense).symm
    · exact (borrowIn_of_chained hsense).symm
  subst hborrow
  exact ⟨decode_cmpc_rr rs rn x, writesFlags_unlessPrefixed _ hp,
    decode_encode (.subc_rrr rs rn rd), subc_rrr_writes rs rn rd hp⟩

/-- Settles O45: each is the load of its width and extension at Rs + Rn. -/
theorem loadsWithRegisterOffset : Obligations.LoadsWithRegisterOffset := by
  intro s rs rn rd hp
  rw [exec_movw_nr rs rn rd hp, exec_movzb_nr rs rn rd hp, exec_movsb_nr rs rn rd hp]
  exact ⟨decode_encode (.movw_nr rs rn rd), loadsWord_loadWord s _ rd,
    decode_encode (.movzb_nr rs rn rd), loadsByteZext_loadByte s _ rd,
    decode_encode (.movsb_nr rs rn rd), loadsByteSext_loadByte s _ rd⟩

/-- Settles O46: each is the store of its width at Rs + Rn. -/
theorem storesWithRegisterOffset : Obligations.StoresWithRegisterOffset := by
  intro s rs rn rd hp
  rw [exec_movw_rn rd rs rn hp, exec_movb_rn rd rs rn hp]
  exact ⟨decode_encode (.movw_rn rd rs rn), storesWord_storeWord s _ _,
    decode_encode (.movb_rn rd rs rn), storesByte_storeByte s _ _⟩

end Sys2Proof.Claims
end

section
/-! SUPPORT. What the moves and shifts make of a word (spec/45_two_reg.md R156 to R165), the words
of format R2 with a field that the instruction does not use (spec/30_encoding.md R66, R74), and what
the instructions of the format answer where PFX is not valid (R152). -/

namespace Sys2Proof.Machine

/-! Moves: bit by bit -/

theorem extend_zext_lowByte (v : Word) : extend .zext (lowByte v) = v &&& 0x00FF#16 := by
  apply BitVec.eq_of_getLsbD_eq
  intro n hn
  interval_cases n <;> simp [extend, lowByte]

theorem extend_sext_lowByte (v : Word) :
    extend .sext (lowByte v) =
      if v.getLsbD 7 then v ||| 0xFF00#16 else v &&& 0x00FF#16 := by
  have hsign : (lowByte v).msb = v.getLsbD 7 := by
    simp [lowByte, BitVec.msb_eq_getLsbD_last]
  apply BitVec.eq_of_getLsbD_eq
  intro n hn
  rw [extend, BitVec.getLsbD_signExtend, hsign]
  cases h7 : v.getLsbD 7 <;> interval_cases n <;> simp [lowByte]

theorem wordOf_exchanged (v : Word) :
    wordOf (lowByte v) (highByte v) = v <<< 8 ||| v >>> 8 := by
  apply BitVec.eq_of_getLsbD_eq
  intro n hn
  interval_cases n <;> simp [wordOf, lowByte, highByte]

theorem ite_msb_eq_ite_negative (v : Word) :
    (if v.msb then 0xFFFF#16 else 0) = if v.toInt < 0 then 0xFFFF#16 else 0 := by
  simp only [BitVec.msb_eq_toInt, decide_eq_true_eq]

/-! Shifts: as numbers -/

/-- A right shift by one with `top` entering bit 15: `State.shiftRight` writes it to Rd. -/
def shiftedRight (v : Word) (top : Bool) : Word :=
  (v >>> 1) ||| (if top then 0x8000#16 else 0)

theorem shiftedRight_toNat (v : Word) (top : Bool) :
    (shiftedRight v top).toNat = v.toNat / 2 + top.toNat * 32768 := by
  have hv := v.isLt
  have hhalf : (v >>> 1).toNat = v.toNat / 2 := by
    rw [BitVec.toNat_ushiftRight, Nat.shiftRight_eq_div_pow]
  have hlt : v.toNat / 2 < 2 ^ 15 := by omega
  cases top with
  | false => simp [shiftedRight, Nat.shiftRight_eq_div_pow]
  | true =>
    have hor := Nat.two_pow_add_eq_or_of_lt hlt 1
    rw [shiftedRight, if_pos rfl, BitVec.toNat_or, hhalf, Bool.toNat_true, Nat.or_comm]
    change 2 ^ 15 * 1 ||| v.toNat / 2 = _
    omega

theorem shiftedRight_eq_ofNat (v : Word) (top : Bool) :
    shiftedRight v top = BitVec.ofNat 16 (v.toNat / 2 + top.toNat * 32768) := by
  rw [← shiftedRight_toNat, BitVec.ofNat_toNat, BitVec.setWidth_eq]

theorem shiftedRight_zero (v : Word) :
    shiftedRight v false = BitVec.ofNat 16 (v.toNat / 2) := by
  rw [shiftedRight_eq_ofNat, Bool.toNat_false, Nat.zero_mul, Nat.add_zero]

/-- With its own sign entering, a word is halved as a signed number, rounding down. -/
theorem shiftedRight_msb (v : Word) :
    shiftedRight v v.msb = BitVec.ofInt 16 (v.toInt / 2) := by
  have hv := v.isLt
  have hnum := shiftedRight_toNat v v.msb
  apply BitVec.eq_of_toNat_eq
  rw [hnum, BitVec.toNat_ofInt, word_toInt, msb_eq_bit15, bit15_eq_decide]
  by_cases hneg : 32768 ≤ v.toNat
  · simp only [hneg, decide_true, Bool.toNat_true, if_true]
    omega
  · simp only [hneg, decide_false, Bool.toNat_false, if_false]
    omega

theorem bit0_toNat (v : Word) : (v.getLsbD 0).toNat = v.toNat % 2 := by
  have h0 : v.getLsbD 0 = decide (v.toNat % 2 = 1) := v.toNat.testBit_zero
  rw [h0]
  rcases Nat.mod_two_eq_zero_or_one v.toNat with h | h <;> rw [h] <;> rfl

end Sys2Proof.Machine

namespace Sys2Proof.Claims

open Sys2Proof.Machine Sys2Proof.Laws

section
variable {i : Instr} {s t u : State}

/-! The words -/

/-- A word with its field Rs not used has the used bits of the word with that field 0. -/
theorem decode_formatR2_rd {op : BitVec 10} {rd : Reg} (x : BitVec 3)
    (hi : i.implemented = true) (henc : encode i = formatR2 op 0 rd.bits)
    (hused : i.opcodeRow.used = 0xFFC7#16) : decode (formatR2 op x rd.bits) = .ok i := by
  have hword (y : BitVec 3) : formatR2 op 0 rd.bits = formatR2 op y rd.bits &&& 0xFFC7#16 := by
    simpa using formatR2_used_rd (formatR2_op op y rd.bits)
  refine unusedBitsAreIgnored _ _ i (decode_encode i) hi ?_
  rw [henc, hused, ← hword x]
  exact hword 0

/-- The same for an instruction without operands. -/
theorem decode_formatR2Zero_none {op : BitVec 10} (x : BitVec 6)
    (hi : i.implemented = true) (henc : encode i = formatR2Zero op 0)
    (hused : i.opcodeRow.used = 0xFFC0#16) : decode (formatR2Zero op x) = .ok i := by
  refine unusedBitsAreIgnored _ _ i (decode_encode i) hi ?_
  rw [henc, hused, ← formatR2Zero_used (formatR2Zero_op op x)]
  exact formatR2Zero_used (formatR2Zero_op op 0)

/-! RUN -/

theorem Writes.run_eq (w : Writes i s u) : u.run = s.run := by
  induction w <;> simp [*]

theorem Ends.run_eq (e : Ends i s t) (hi : i ≠ .halt) : t.run = s.run := by
  cases e with
  | retire w | jump _ _ w => exact w.run_eq
  | latch => rfl
  | halt h => exact absurd h hi

/-! Shifts -/

theorem writesRegShift_shiftRight (rs rd : Reg) (top : Bool) (hp : s.pfx.valid = false) :
    WritesRegShift s (s.shiftRight rs rd top) rd (shiftedRight (s.reg rs) top)
      ((s.reg rs).getLsbD 0) := by
  have hanswer : s.shiftRight rs rd top =
      .next ((s.setReg rd (shiftedRight (s.reg rs) top)).setShift ((s.reg rs).getLsbD 0)).retire :=
    unlessPrefixed_of_not s _ hp
  rw [hanswer]
  exact ⟨_, rfl, setReg_reg_self s rd _, fun _ hq => setReg_reg_other s _ hq, rfl, rfl, rfl,
    fun _ => rfl, ⟨rfl, rfl, rfl, rfl⟩, advanced_retire rfl⟩

theorem lsr_rr_writes (rs rd : Reg) (hp : s.pfx.valid = false) :
    WritesRegShift s (exec (.lsr_rr rs rd) s) rd (shiftedRight (s.reg rs) false)
      ((s.reg rs).getLsbD 0) :=
  writesRegShift_shiftRight rs rd false hp

theorem lsrc_rr_writes (rs rd : Reg) (hp : s.pfx.valid = false) :
    WritesRegShift s (exec (.lsrc_rr rs rd) s) rd (shiftedRight (s.reg rs) s.sr.c)
      ((s.reg rs).getLsbD 0) :=
  writesRegShift_shiftRight rs rd s.sr.c hp

theorem asr_rr_writes (rs rd : Reg) (hp : s.pfx.valid = false) :
    WritesRegShift s (exec (.asr_rr rs rd) s) rd (shiftedRight (s.reg rs) (s.reg rs).msb)
      ((s.reg rs).getLsbD 0) :=
  writesRegShift_shiftRight rs rd (s.reg rs).msb hp

/-- The bit that leaves the high half enters the low one, and the low bit of the whole is left. -/
theorem shiftedRight_halves (hi lo : Word) :
    (shiftedRight hi false).toNat * 65536 + (shiftedRight lo (hi.getLsbD 0)).toNat =
      (hi.toNat * 65536 + lo.toNat) / 2 := by
  rw [shiftedRight_toNat, shiftedRight_toNat, bit0_toNat, Bool.toNat_false]
  omega

/-- The parity of a pair is that of its low half. -/
theorem bit0_iff_pair_odd (s : State) (hi lo : Reg) :
    (s.reg lo).getLsbD 0 = true ↔ pair s hi lo % 2 = 1 := by
  have hlo := bit0_toNat (s.reg lo)
  rw [pair, ← Bool.toNat_eq_one, hlo]
  omega

/-! Program memory, the stack and the interrupt flag -/

theorem exec_movw_pr (rs rd : Reg) (hp : s.pfx.valid = false) :
    exec (.movw_pr rs rd) s = andThen (s.pmRead (s.reg rs)) fun v => .next (s.setReg rd v).retire :=
  unlessPrefixed_of_not s _ hp

theorem exec_push_r (rd : Reg) (hp : s.pfx.valid = false) :
    exec (.push_r rd) s = andThen (s.pushWord (s.reg rd)) fun u => .next u.retire :=
  unlessPrefixed_of_not s _ hp

theorem exec_pop_r (rd : Reg) (hp : s.pfx.valid = false) :
    exec (.pop_r rd) s =
      andThen (s.readWord s.sp) fun r => .next ((r.2.setReg rd r.1).setSp s.poppedSp).retire :=
  unlessPrefixed_of_not s _ hp

theorem exec_ret (hp : s.pfx.valid = false) :
    exec .ret s = andThen (s.readWord s.sp) fun r => .next ((r.2.setSp s.poppedSp).jump r.1) :=
  unlessPrefixed_of_not s _ hp

theorem exec_push_r_of_plain (rd : Reg) (hp : s.pfx.valid = false) (he : IsEven s.pushAddr)
    (h : PlainWord s.cfg s.pushAddr) :
    exec (.push_r rd) s = .next ((s.setSp s.pushAddr).setWord s.pushAddr (s.reg rd)).retire := by
  rw [exec_push_r rd hp, pushWord_of_plain he h, andThen_ok]

theorem exec_pop_r_of_plain (rd : Reg) (hp : s.pfx.valid = false) (he : IsEven s.sp)
    (h : PlainWord s.cfg s.sp) :
    exec (.pop_r rd) s = .next ((s.setReg rd (joinBytes s.cfg.endian (s.dmByte s.sp)
      (s.dmByte (s.sp + 1)))).setSp s.poppedSp).retire := by
  rw [exec_pop_r rd hp, readWord_of_plain he h, andThen_ok]

/-- `dint` and `eint` write I alone. -/
theorem writesInterruptFlag_unlessPrefixed (b : Bool) (hp : s.pfx.valid = false) :
    ∃ t, s.unlessPrefixed (.next (s.setInterrupt b).retire) = .next t ∧
      t.sr = { s.sr with i := b } ∧ RegsKept s t ∧ t.sp = s.sp ∧ MemoryKept s t ∧
      MachineKept s t ∧ Advanced s t :=
  ⟨_, unlessPrefixed_of_not s _ hp, rfl, fun _ => rfl, rfl, fun _ => rfl, ⟨rfl, rfl, rfl, rfl⟩,
    advanced_retire rfl⟩

end

end Sys2Proof.Claims
end

section
/-! PROOFS. The statements about format R2 (spec/45_two_reg.md R154, R156 to R159, R161 to
R165, R170, R171, R175 to R179). -/

namespace Sys2Proof.Claims

open Sys2Proof.Machine Sys2Proof.Laws

/-- Settles O32: each of the five writes its value to Rd and ends. -/
theorem twoRegisterMoves : Obligations.TwoRegisterMoves := by
  intro s rs rd hp
  rw [← extend_sext_lowByte, ← extend_zext_lowByte, ← wordOf_exchanged, ← ite_msb_eq_ite_negative]
  exact ⟨decode_encode (.mov_rr rs rd), writesReg_unlessPrefixed rd _ hp,
    decode_encode (.zext_rr rs rd), writesReg_unlessPrefixed rd _ hp,
    decode_encode (.sext_rr rs rd), writesReg_unlessPrefixed rd _ hp,
    decode_encode (.bswap_rr rs rd), writesReg_unlessPrefixed rd _ hp,
    decode_encode (.sextw_rr rs rd), writesReg_unlessPrefixed rd _ hp⟩

/-- Settles O34: the read of program memory answers the word, or is the refusal of R46. -/
theorem loadFromProgramMemory : Obligations.LoadFromProgramMemory := by
  intro s rs rd hp
  rw [exec_movw_pr rs rd hp]
  refine ⟨decode_encode (.movw_pr rs rd), fun hlt => ?_, fun hle => ?_⟩
  · rw [(pmRead_eq_ok s (s.reg rs) _).2 ⟨hlt, rfl⟩, andThen_ok]
    exact writesReg_retire s rd _
  · rw [pmRead_beyond hle]
    rfl

/-- Settles O40: one shift, with a bit entering that is 0, the old C, or the sign. -/
theorem shiftsByOne : Obligations.ShiftsByOne := by
  intro s rs rd hp
  rw [← shiftedRight_zero, ← shiftedRight_eq_ofNat, ← shiftedRight_msb]
  exact ⟨decode_encode (.lsr_rr rs rd), lsr_rr_writes rs rd hp,
    decode_encode (.lsrc_rr rs rd), lsrc_rr_writes rs rd hp,
    decode_encode (.asr_rr rs rd), asr_rr_writes rs rd hp⟩

/-- Settles O49: the push goes on at the word after the instruction. -/
theorem pushDecrementsThenStores : Obligations.PushDecrementsThenStores := by
  intro s rd x hp
  refine ⟨decode_formatR2_rd x rfl rfl rfl, ?_⟩
  rw [exec_push_r rd hp]
  exact pushesAndGoesTo_pushWord s (s.reg rd) (dest := State.next) fun u hpc => by
    rw [next_eq_pc_add_one, hpc]

/-- Settles O50: both are the read of the word at SP, which stops where it stops. -/
theorem popAndReturnLoadThenIncrement : Obligations.PopAndReturnLoadThenIncrement := by
  intro s rd x x' hp
  have hkept : MachineKeptBy (.readWord s.sp) (WordInRegion s.cfg s.sp) s
      (s.note [s.sp, s.sp + 1] (.readWord s.sp)) := machineKeptBy_note_word (machineKept_refl s)
  rw [exec_pop_r rd hp, exec_ret hp]
  refine ⟨decode_formatR2_rd x rfl rfl rfl, wordAccess_readWord fun he h => ?pop,
    decode_formatR2Zero_none x' rfl rfl rfl, wordAccess_readWord fun he h => ?ret⟩
  case pop =>
    rw [readWord_of_present he h, andThen_ok]
    exact ⟨_, rfl, setReg_reg_self _ rd _, fun _ hq => setReg_reg_other _ _ hq, rfl, rfl,
      fun _ => rfl, hkept, advanced_retire rfl⟩
  case ret =>
    rw [readWord_of_present he h, andThen_ok]
    exact ⟨_, rfl, rfl, rfl, fun _ => rfl, rfl, rfl, fun _ => rfl, hkept⟩

/-- Settles O52: of the ways an instruction may end, only that of `halt` writes RUN. -/
theorem haltStopsTheMachine : Obligations.HaltStopsTheMachine := by
  refine ⟨fun s x hp => ⟨decode_formatR2Zero_none x rfl rfl rfl, ?halt⟩,
    fun i s t h hi => (ends_of_exec h).run_eq hi⟩
  case halt =>
    exact ⟨_, unlessPrefixed_of_not s _ hp, rfl, advanced_retire (s := s) rfl, fun _ => rfl, rfl,
      rfl, fun _ => rfl, rfl, rfl, rfl⟩

/-- Settles O57: the second shift finds the low operand, and in C the bit that left the high one. -/
theorem lsrThenLsrcShifts32Bits : Obligations.LsrThenLsrcShifts32Bits := by
  intro s ah al dh dl hp hal hd
  obtain ⟨t, ht, hdh, hkept, -, -, hc, -, -, -, hpfx⟩ := lsr_rr_writes ah dh hp
  obtain ⟨u, hu, hdl, hkept', -, -, hc', -⟩ := lsrc_rr_writes al dl hpfx
  rw [hkept al hal.symm] at hdl hc'
  refine ⟨t, u, ht, hu, ?half, ?carry⟩
  case half =>
    rw [pair, hkept' dh hd.symm, hdh, hdl, hc]
    exact shiftedRight_halves (s.reg ah) (s.reg al)
  case carry =>
    rw [hc']
    exact bit0_iff_pair_odd s ah al

/-- Settles O58: the push leaves SP at the word and PFX not valid, so the pop reads that word back
and moves SP up again. -/
theorem pushThenPopRestores : Obligations.PushThenPopRestores := by
  intro s rs rd hp he h
  refine ⟨_, _, exec_push_r_of_plain rs hp he h, exec_pop_r_of_plain rd rfl he h, ?value,
    fun _ hq => setReg_reg_other _ _ hq, pushAddr_add_stackStep s, rfl,
    wordStored_setWord (s.setSp s.pushAddr) s.pushAddr (s.reg rs)⟩
  case value =>
    rw [retire_reg, setSp_reg, setReg_reg_self]
    exact joinBytes_setWord (s.setSp s.pushAddr) s.pushAddr (s.reg rs)

/-- Settles O51: the two write I, one each value. -/
theorem interruptFlagInstructions : Obligations.InterruptFlagInstructions := by
  intro s x hp
  exact ⟨decode_formatR2Zero_none x rfl rfl rfl, writesInterruptFlag_unlessPrefixed false hp,
    decode_formatR2Zero_none x rfl rfl rfl, writesInterruptFlag_unlessPrefixed true hp⟩

/-- Settles O53: past the check of PFX, `IRQ_MODEL` = none has no other answer. -/
theorem returnFromInterruptIsRefused : Obligations.ReturnFromInterruptIsRefused := by
  intro s x _ hp
  exact ⟨decode_formatR2Zero_none x rfl rfl rfl, unlessPrefixed_of_not s _ hp⟩

end Sys2Proof.Claims
end

section
/-! PROOFS. The statements about reset (spec/70_reset_and_hazards.md R200). -/

namespace Sys2Proof.Claims

open Sys2Proof.Machine

/-- Program memory at reset is a layout of words inside the address space. -/
theorem resetWith_pm_wf (l : Launch) : (State.resetWith l).pm.wf = true := by
  have hlen : 0 + (l.program.take 65536).length ≤ 65536 := by
    rw [Nat.zero_add]
    exact List.length_take_le 65536 l.program
  exact Bool.and_eq_true_iff.2
    ⟨memory_rising_layout _ _ 0, memory_below_layout _ _ 0 65536 hlen⟩

/-- Program memory at reset reads `PROGRAM`, and as erased past its end. -/
theorem resetWith_pmWord (l : Launch) (a : Word) :
    (State.resetWith l).pmWord a = (l.program[a.toNat]?).getD erasedWord :=
  calc (State.resetWith l).pmWord a
      = ((l.program.take 65536)[a.toNat]?).getD erasedWord :=
        memory_read_layout erasedWord _ 0 a.toNat (Nat.zero_le _)
    _ = (l.program[a.toNat]?).getD erasedWord := by rw [List.getElem?_take_of_lt a.isLt]

/-- Both memories at reset are in canonical form: data memory is empty, program memory a layout. -/
theorem resetWith_wf (l : Launch) : (State.resetWith l).wf = true := by
  simp only [State.wf, Bool.and_eq_true]
  exact ⟨⟨rfl, resetWith_pm_wf l⟩, memory_omits_layout erasedWord _ 0⟩

/-- Settles O11: the default launch is one of the launches. -/
theorem resetMemoriesAreCanonical : Obligations.ResetMemoriesAreCanonical :=
  ⟨resetWith_wf, resetWith_wf {}⟩

/-- Settles O12: the launch names each value that R200 leaves unspecified. -/
theorem resetSetsWhatTheSpecSets : Obligations.ResetSetsWhatTheSpecSets := by
  refine ⟨fun l => ⟨rfl, rfl, rfl, rfl, fun _ => rfl, fun a w hw => ?program⟩,
    fun r sp v f c z k => ?unspecified, rfl⟩
  case program => rw [resetWith_pmWord, hw, Option.getD_some]
  case unspecified =>
    exact ⟨{ regs := r, sp := sp, v := v, s := f, c := c, z := z, pfxImm := k },
      rfl, rfl, rfl, rfl, rfl⟩

end Sys2Proof.Claims
end
